-- ==== Sys2Proof/Word.lean ====
section
/-! DEFINITION. The word type of the encoder: every operand and every emitted byte is 8 bits (30_encoding R74,
20_memory R47); nothing in the block is wider. -/

namespace Sys2Proof

/-- One byte; bit 7 is the most significant (00_scope, section 6). -/
abbrev Byte := BitVec 8

end Sys2Proof
end

