-- ==== Sys2Proof/Config.lean ====
section
/-! DEFINITION. The configuration record CFG (00_scope R6), its default CFG0, and when it is well formed (R7).
The spec leaves no value free after an operation, so there is no opaque constant here. -/

namespace Sys2Proof

/-- CFG: every quantity the source fixes only in words or not at all (00_scope R6). -/
structure Config where
  /-- `CAP`, the capacity of the output buffer in bytes. -/
  cap : Nat
  /-- `MAX_ROWS`, the largest supported row count. -/
  maxRows : Nat
  /-- `MAX_COLS`, the largest supported column count. -/
  maxCols : Nat
  /-- `MAX_SLOT`, the largest glyph slot index. -/
  maxSlot : Nat
  /-- `RS_MASK`, the expander bit that carries register-select. -/
  rsMask : Byte
  /-- `RW_MASK`, the expander bit that carries read/write. -/
  rwMask : Byte
  /-- `EN_MASK`, the expander bit that carries the enable strobe. -/
  enMask : Byte
  /-- `BL_MASK`, the expander bit that carries the backlight. -/
  blMask : Byte
  /-- `ROWBASE[0..3]`, the Row-Address Table, 7 bits an entry (10_state R21). -/
  rowBase : Vector (BitVec 7) 4
  /-- `T_SYNC1`, in microseconds. -/
  tSync1 : Nat
  /-- `T_SYNC2`, in microseconds. -/
  tSync2 : Nat
  /-- `T_SYNC3`, in microseconds. -/
  tSync3 : Nat
  /-- `T_CLEAR`, in microseconds. -/
  tClear : Nat
  /-- `T_HOME`, in microseconds. -/
  tHome : Nat
  /-- `BL_RESET`, the backlight flag after INIT. -/
  blReset : Bool
  /-- `DCTL_RESET`, the display-control flags after INIT. -/
  dctlReset : Byte
  /-- `EMODE_RESET`, the entry-mode flags after INIT. -/
  emodeReset : Byte
  /-- `C_CLEAR`. -/
  cClear : Byte
  /-- `C_HOME`. -/
  cHome : Byte
  /-- `C_ENTRYMODE`. -/
  cEntryMode : Byte
  /-- `C_DISPLAYCTL`. -/
  cDisplayCtl : Byte
  /-- `C_SHIFT`. -/
  cShift : Byte
  /-- `C_FUNCTIONSET`. -/
  cFunctionSet : Byte
  /-- `C_SETCGRAM`. -/
  cSetCgram : Byte
  /-- `C_SETDDRAM`. -/
  cSetDdram : Byte
  deriving DecidableEq, Repr

/-- CFG0, the default configuration (00_scope R6). -/
def Config.cfg0 : Config where
  cap := 32
  maxRows := 4
  maxCols := 20
  maxSlot := 7
  rsMask := 0x01
  rwMask := 0x02
  enMask := 0x04
  blMask := 0x08
  rowBase := #v[0x00, 0x40, 0x14, 0x54]
  tSync1 := 4500
  tSync2 := 4500
  tSync3 := 150
  tClear := 2000
  tHome := 2000
  blReset := false
  dctlReset := 0x04
  emodeReset := 0x02
  cClear := 0x01
  cHome := 0x02
  cEntryMode := 0x04
  cDisplayCtl := 0x08
  cShift := 0x10
  cFunctionSet := 0x20
  cSetCgram := 0x40
  cSetDdram := 0x80

/-- A single-bit mask inside `0x0F` (00_scope R7). -/
abbrev Config.ControlBit (m : Byte) : Prop := m = 0x01 ∨ m = 0x02 ∨ m = 0x04 ∨ m = 0x08

/-- The four control masks are different single bits inside `0x0F` (00_scope R7). -/
abbrev Config.MasksDistinct (c : Config) : Prop :=
  (ControlBit c.rsMask ∧ ControlBit c.rwMask ∧ ControlBit c.enMask ∧ ControlBit c.blMask) ∧
  (c.rsMask ≠ c.rwMask ∧ c.rsMask ≠ c.enMask ∧ c.rsMask ≠ c.blMask) ∧
  (c.rwMask ≠ c.enMask ∧ c.rwMask ≠ c.blMask ∧ c.enMask ≠ c.blMask)

/-- Every line of the table reaches its last column inside 7 bits:
`ROWBASE[r] + MAX_COLS - 1 <= 0x7F` for every `r < MAX_ROWS` (00_scope R7). -/
abbrev Config.RowsFit (c : Config) : Prop :=
  ∀ r : Fin 4, r.val < c.maxRows → (c.rowBase[r]).toNat + c.maxCols - 1 ≤ 0x7F

/-- A configuration is well formed when all the conditions of 00_scope R7 hold. -/
abbrev Config.WF (c : Config) : Prop :=
  5 ≤ c.cap ∧ c.MasksDistinct ∧ (1 ≤ c.maxRows ∧ c.maxRows ≤ 4) ∧ 1 ≤ c.maxCols ∧ c.RowsFit ∧ c.maxSlot = 7

end Sys2Proof
end

