-- ==== Sys2Proof/Syntax.lean ====
section
/-! DEFINITION. The operations of the command port, one constructor per row of spec/opcode_table.json
(30_encoding R72). `WRITESTRING` is another spelling of `WRITE`'s words (R78) and has none of its own. -/

namespace Sys2Proof

/-- The eight row bytes of a glyph, row 0 on top (42_glyphs R130, R132). -/
structure Glyph where
  r0 : Byte
  r1 : Byte
  r2 : Byte
  r3 : Byte
  r4 : Byte
  r5 : Byte
  r6 : Byte
  r7 : Byte
  deriving DecidableEq, Repr

/-- The rows in the order they are sent, `b[0]` to `b[7]`. -/
def Glyph.rows (g : Glyph) : List Byte := [g.r0, g.r1, g.r2, g.r3, g.r4, g.r5, g.r6, g.r7]

/-- One operation with its operands. `b` is the header's `B` bit: true leaves the bytes pending, false flushes at
the end (30_encoding R71). -/
inductive Instr where
  /-- `INIT address, columns, rows` (44_init R170). -/
  | init (address columns rows : Byte)
  /-- `WRITECHAR c` (41_text_cursor R110). -/
  | writeChar (b : Bool) (c : Byte)
  /-- `WRITE n, d[0..n-1]`; the size `n` is the length of `data` (41_text_cursor R111). -/
  | write (b : Bool) (data : List Byte)
  /-- `SETCURSOR line, position` (41_text_cursor R113). -/
  | setCursor (b : Bool) (line position : Byte)
  /-- `CLEAR` (41_text_cursor R115). -/
  | clear
  /-- `HOME` (41_text_cursor R116). -/
  | home
  /-- `BACKLIGHT` (43_feature_toggles R153). -/
  | backlight
  /-- `NOBACKLIGHT` (43_feature_toggles R154). -/
  | noBacklight
  /-- `CURSOR` (43_feature_toggles R143). -/
  | cursor
  /-- `NOCURSOR` (43_feature_toggles R144). -/
  | noCursor
  /-- `BLINK` (43_feature_toggles R145). -/
  | blink
  /-- `NOBLINK` (43_feature_toggles R146). -/
  | noBlink
  /-- `DISPLAY` (43_feature_toggles R141). -/
  | display
  /-- `NODISPLAY` (43_feature_toggles R142). -/
  | noDisplay
  /-- `SCROLLLEFT` (43_feature_toggles R151). -/
  | scrollLeft
  /-- `SCROLLRIGHT` (43_feature_toggles R152). -/
  | scrollRight
  /-- `AUTOSCROLL` (43_feature_toggles R147). -/
  | autoscroll
  /-- `NOAUTOSCROLL` (43_feature_toggles R148). -/
  | noAutoscroll
  /-- `LEFTTORIGHT` (43_feature_toggles R149). -/
  | leftToRight
  /-- `RIGHTTOLEFT` (43_feature_toggles R150). -/
  | rightToLeft
  /-- `CREATECHAR slot, b0 .. b7` (42_glyphs R130). -/
  | createChar (slot : Byte) (bitmap : Glyph)
  /-- `SHOW` (40_encoder_primitives R100). -/
  | showBuffer
  /-- `SENDCMD v` (40_encoder_primitives R101). -/
  | sendCmd (b : Bool) (v : Byte)
  /-- `SENDDATA v` (40_encoder_primitives R102). -/
  | sendData (b : Bool) (v : Byte)
  /-- `WRITEBYTE v` (40_encoder_primitives R103). -/
  | writeByte (b : Bool) (v : Byte)
  deriving DecidableEq, Repr

end Sys2Proof
end

