-- ==== Sys2Proof/WellFormed.lean ====
section
/-! DEFINITION. When an operation has an encoding. Every value of every operand byte is legal (30_encoding R76); the
one limit is that `WRITE`'s size is one byte, 0..255 (R73). -/

namespace Sys2Proof

/-- The operation can be put on the command port (30_encoding R73, R76). -/
def WellFormed : Instr → Bool
  | .init _ _ _ => true
  | .writeChar _ _ => true
  | .write _ data => decide (data.length ≤ 255)
  | .setCursor _ _ _ => true
  | .clear => true
  | .home => true
  | .backlight => true
  | .noBacklight => true
  | .cursor => true
  | .noCursor => true
  | .blink => true
  | .noBlink => true
  | .display => true
  | .noDisplay => true
  | .scrollLeft => true
  | .scrollRight => true
  | .autoscroll => true
  | .noAutoscroll => true
  | .leftToRight => true
  | .rightToLeft => true
  | .createChar _ _ => true
  | .showBuffer => true
  | .sendCmd _ _ => true
  | .sendData _ _ => true
  | .writeByte _ _ => true

end Sys2Proof
end

