-- ==== Sys2Proof/Decode.lean ====
section
/-! DEFINITION. The command-port decoder and the encoder (30_encoding R71 to R76). The decoder reads one operation
from the front of a byte list and returns it with the bytes after it, or the name of what is wrong. -/

namespace Sys2Proof

/-- Why bytes select no operation (30_encoding R75). -/
inductive Reject where
  /-- No header byte at all. -/
  | noHeader
  /-- Header bits 6:5 are not `00`. -/
  | reservedBits
  /-- `OP` is in `0x19..0x1F`. -/
  | reservedOp
  /-- `B` is set on an operation that has no buffering operand. -/
  | bufferingNotAllowed
  /-- The stream ends before the last operand byte. -/
  | truncated
  deriving DecidableEq, Repr

/-- What the decoder answers: an operation and the bytes after it, or a rejection by name. -/
abbrev Decoded := Except Reject (Instr × List Byte)

/-- Format N: header only (30_encoding R73). -/
def operandsN (i : Instr) (rest : List Byte) : Decoded := .ok (i, rest)

/-- Format V: one operand byte. -/
def operandsV (f : Byte → Instr) : List Byte → Decoded
  | v :: rest => .ok (f v, rest)
  | [] => .error .truncated

/-- Format P: two operand bytes. -/
def operandsP (f : Byte → Byte → Instr) : List Byte → Decoded
  | x :: y :: rest => .ok (f x y, rest)
  | [_] => .error .truncated
  | [] => .error .truncated

/-- Format I: three operand bytes. -/
def operandsI (f : Byte → Byte → Byte → Instr) : List Byte → Decoded
  | x :: y :: z :: rest => .ok (f x y z, rest)
  | [_, _] => .error .truncated
  | [_] => .error .truncated
  | [] => .error .truncated

/-- Format G: a slot byte and eight row bytes. -/
def operandsG (f : Byte → Glyph → Instr) : List Byte → Decoded
  | slot :: b0 :: b1 :: b2 :: b3 :: b4 :: b5 :: b6 :: b7 :: rest =>
      .ok (f slot ⟨b0, b1, b2, b3, b4, b5, b6, b7⟩, rest)
  | _ => .error .truncated

/-- Format S: a length byte `n` and `n` data bytes. -/
def operandsS (f : List Byte → Instr) : List Byte → Decoded
  | n :: rest => if n.toNat ≤ rest.length then .ok (f (rest.take n.toNat), rest.drop n.toNat) else .error .truncated
  | [] => .error .truncated

/-- An operation without a buffering operand: bit 7 of its header is reserved and must be 0 (30_encoding R71). -/
def unbuffered (b : Bool) (d : Decoded) : Decoded := if b then .error .bufferingNotAllowed else d

/-- The operation map (30_encoding R72): `op` is header bits 4:0, `b` header bit 7, `rest` the bytes after the header. -/
def decodeOp (op : Nat) (b : Bool) (rest : List Byte) : Decoded :=
  match op with
  | 0x00 => unbuffered b (operandsI .init rest)
  | 0x01 => operandsV (.writeChar b) rest
  | 0x02 => operandsS (.write b) rest
  | 0x03 => operandsP (.setCursor b) rest
  | 0x04 => unbuffered b (operandsN .clear rest)
  | 0x05 => unbuffered b (operandsN .home rest)
  | 0x06 => unbuffered b (operandsN .backlight rest)
  | 0x07 => unbuffered b (operandsN .noBacklight rest)
  | 0x08 => unbuffered b (operandsN .cursor rest)
  | 0x09 => unbuffered b (operandsN .noCursor rest)
  | 0x0A => unbuffered b (operandsN .blink rest)
  | 0x0B => unbuffered b (operandsN .noBlink rest)
  | 0x0C => unbuffered b (operandsN .display rest)
  | 0x0D => unbuffered b (operandsN .noDisplay rest)
  | 0x0E => unbuffered b (operandsN .scrollLeft rest)
  | 0x0F => unbuffered b (operandsN .scrollRight rest)
  | 0x10 => unbuffered b (operandsN .autoscroll rest)
  | 0x11 => unbuffered b (operandsN .noAutoscroll rest)
  | 0x12 => unbuffered b (operandsN .leftToRight rest)
  | 0x13 => unbuffered b (operandsN .rightToLeft rest)
  | 0x14 => unbuffered b (operandsG .createChar rest)
  | 0x15 => unbuffered b (operandsN .showBuffer rest)
  | 0x16 => operandsV (.sendCmd b) rest
  | 0x17 => operandsV (.sendData b) rest
  | 0x18 => operandsV (.writeByte b) rest
  | _ => .error .reservedOp

/-- Header bits 4:0, the operation number (30_encoding R71). -/
def headerOp (h : Byte) : Nat := (h &&& 0x1F).toNat

/-- Header bits 6:5, reserved (30_encoding R71). -/
def headerReserved (h : Byte) : Byte := h &&& 0x60

/-- Header bit 7, the `bufferingEnabled` operand (30_encoding R71). -/
def headerB (h : Byte) : Bool := h &&& 0x80 != 0

/-- One operation from the front of the stream (30_encoding R71 to R75). -/
def decode : List Byte → Decoded
  | [] => .error .noHeader
  | h :: rest => if headerReserved h = 0 then decodeOp (headerOp h) (headerB h) rest else .error .reservedBits

/-- The header byte of operation number `op` with buffering bit `b` (30_encoding R71). -/
def header (b : Bool) (op : Byte) : Byte := (if b then 0x80 else 0x00) ||| op

/-- The words of an operation (30_encoding R72, R73). -/
def encode : Instr → List Byte
  | .init address columns rows => [header false 0x00, address, columns, rows]
  | .writeChar b c => [header b 0x01, c]
  | .write b data => header b 0x02 :: BitVec.ofNat 8 data.length :: data
  | .setCursor b line position => [header b 0x03, line, position]
  | .clear => [header false 0x04]
  | .home => [header false 0x05]
  | .backlight => [header false 0x06]
  | .noBacklight => [header false 0x07]
  | .cursor => [header false 0x08]
  | .noCursor => [header false 0x09]
  | .blink => [header false 0x0A]
  | .noBlink => [header false 0x0B]
  | .display => [header false 0x0C]
  | .noDisplay => [header false 0x0D]
  | .scrollLeft => [header false 0x0E]
  | .scrollRight => [header false 0x0F]
  | .autoscroll => [header false 0x10]
  | .noAutoscroll => [header false 0x11]
  | .leftToRight => [header false 0x12]
  | .rightToLeft => [header false 0x13]
  | .createChar slot g => header false 0x14 :: slot :: g.rows
  | .showBuffer => [header false 0x15]
  | .sendCmd b v => [header b 0x16, v]
  | .sendData b v => [header b 0x17, v]
  | .writeByte b v => [header b 0x18, v]

/-- The longest operation without a length byte: format G, 10 bytes (30_encoding R73). -/
def longestFixed : Nat := 10

/-- `n` bytes of the number `w`, least significant byte first: spec/opcode_table.json numbers bit 0 as the least
significant bit of the first byte. -/
def bytesOfNat : Nat → Nat → List Byte
  | 0, _ => []
  | n + 1, w => BitVec.ofNat 8 w :: bytesOfNat n (w / 256)

/-- How many bytes to lay out for table bits `w`: enough for every format, and `2 + n` where the second byte is a length
byte `n` (30_encoding R73). -/
def tableLength (nbits w : Nat) : Nat := max (max (nbits / 8) longestFixed) (2 + w / 256 % 256)

/-- The bytes of an instruction whose table bits are `w`: the bits at and above `nbits` are 0. -/
def paddedTableBytes (nbits w : Nat) : List Byte :=
  bytesOfNat (tableLength nbits (w % 2 ^ nbits)) (w % 2 ^ nbits)

/-- The operation read from a table word, if its bits select one. -/
def decodeTableWord (nbits w : Nat) : Option Instr :=
  match decode (paddedTableBytes nbits w) with
  | .ok (i, _) => some i
  | .error _ => none

/-- The bytes of a table word as the caller would issue them: exactly the operation's own bytes, or all the padded
bytes where they select no operation. -/
def issuedTableBytes (nbits w : Nat) : List Byte :=
  match decode (paddedTableBytes nbits w) with
  | .ok (_, rest) => (paddedTableBytes nbits w).take ((paddedTableBytes nbits w).length - rest.length)
  | .error _ => paddedTableBytes nbits w

end Sys2Proof
end

