-- ==== Sys2Proof/Machine/State.lean ====
section
/-! DEFINITION. The encoder's state as plain data: the Session (10_state R10), the model-only trace, results and
refusal mark the spec names (R24, R25, 60_exceptions R195), the command port's waiting bytes and the configuration;
and the state after power-on (R28). -/

namespace Sys2Proof.Machine

/-- The mode of a nibble transfer; it selects the register-select bit (30_encoding R62). -/
inductive Mode where
  | cmd
  | data
  deriving DecidableEq, Repr

/-- INITSTATE, the seven states in their order (10_state R13). -/
inductive InitState where
  | unknown
  | nibbleSync1
  | nibbleSync2
  | nibbleSync3
  | fourBitSelected
  | configured
  | cleared
  deriving DecidableEq, Repr

/-- One call of the Transport Adapter (10_state R24). -/
inductive Event where
  /-- One block write to a bus address. -/
  | bw (addr : Byte) (bytes : List Byte)
  /-- One delay request, in microseconds. -/
  | dly (us : Nat)
  deriving DecidableEq, Repr

/-- Why the machine stops with a fault. The hardware has no exception (60_exceptions R190); the one constructor is
the model's own and no state that meets the invariant raises it. -/
inductive Fault where
  /-- Raised by SETCURSOR alone, where the clamped line has no row-table entry or the target leaves 7 bits, so that
  R113 names no address. Safe: R7 and R15 rule such states out, and no run reaches one (log entry 8). -/
  | noDisplayAddress
  deriving DecidableEq, Repr

/-- Why an input has no meaning. -/
inductive Refusal where
  /-- Raised by `exec`'s arm of an instruction that has no meaning yet. Safe. No arm raises it in this model. -/
  | notModelled (mnemonic : String)
  /-- Raised by every step and every operation of a machine whose CFG fails R7 (60_exceptions R195). Safe. -/
  | illFormedConfig
  /-- Raised by a step whose waiting bytes select no operation (60_exceptions R195, 30_encoding R75). Safe. -/
  | invalidEncoding (why : Reject)
  /-- Raised by every operation but INIT while INITSTATE is not Cleared (60_exceptions R195). Safe. -/
  | uninitialised
  deriving DecidableEq, Repr

/-- The encoder's state. -/
@[ext]
structure State where
  /-- CFG (00_scope R6), constant; it holds ROWBASE (10_state R21). -/
  cfg : Config
  /-- INITSTATE (R13). -/
  initState : InitState
  /-- ADDR, the bus address (R14). -/
  addr : Byte
  /-- ROWS (R15). -/
  rows : Nat
  /-- COLS (R15). -/
  cols : Nat
  /-- BL, the backlight bit (R16). -/
  bl : Bool
  /-- DCTL, the display-control flags (R17). -/
  dctl : Byte
  /-- EMODE, the entry-mode flags (R18). -/
  emode : Byte
  /-- FSET, the function-set flags (R19). -/
  fset : Byte
  /-- LASTMODE, the Mode-Elision Tracker; `none` is the spec's own value NONE (R20). -/
  lastMode : Option Mode
  /-- The pending bytes BUF[0..FILL-1] in index order; FILL is the length (R22, R23; log entry 7). -/
  buf : List Byte
  /-- OUT, the events handed to the Transport Adapter, oldest first (R24). -/
  out : List Event
  /-- The values the result port has carried, one per SHOW, oldest first (R25; log entry 9). -/
  results : List Nat
  /-- The bytes on the command port that the encoder has not taken yet (30_encoding R71; log entry 3). -/
  port : List Byte
  /-- The run contains a refusal (60_exceptions R195; log entry 5). -/
  containsRefusal : Bool
  deriving DecidableEq, Repr

/-- Power-on under CFG0: INITSTATE is Unknown and OUT is empty (10_state R28). The registers the spec gives no value
here hold the values of log entry 2 (DESIGN CHOICE); no operation but INIT is admitted, so none of them is used. -/
def State.reset : State where
  cfg := Config.cfg0
  initState := .unknown
  addr := 0x00
  rows := 0
  cols := 0
  bl := false
  dctl := 0x00
  emode := 0x00
  fset := 0x00
  lastMode := none
  buf := []
  out := []
  results := []
  port := []
  containsRefusal := false

/-- What a meaning and a step answer. -/
abbrev Answer := Host.Outcome State Fault Refusal

end Sys2Proof.Machine
end

