-- ==== Sys2Proof/Machine/Flags.lean ====
section
/-! DEFINITION. The display-state flag bytes (10_state R17 to R19) and the command bytes that carry them: the command
code or-ed with the whole flag register (30_encoding R68, R69). -/

namespace Sys2Proof.Machine

/-- `D`, display on (10_state R17). -/
def flagD : Byte := 0x04
/-- `C`, cursor shown (10_state R17). -/
def flagC : Byte := 0x02
/-- `B`, cursor position blinks (10_state R17). -/
def flagB : Byte := 0x01
/-- `ID`, text direction left to right (10_state R18). -/
def flagID : Byte := 0x02
/-- `S`, autoscroll (10_state R18). -/
def flagS : Byte := 0x01
/-- `N`, two-line controller mode (10_state R19). -/
def flagN : Byte := 0x08
/-- The shift command's bit 3: shift the display (30_encoding R68). -/
def shiftDisplay : Byte := 0x08
/-- The shift command's bit 2: shift right (30_encoding R68). -/
def shiftRight : Byte := 0x04

/-- Set a flag: `reg | bit`. -/
def setFlag (reg bit : Byte) : Byte := reg ||| bit

/-- Clear a flag: `reg & ~bit`. -/
def clearFlag (reg bit : Byte) : Byte := reg &&& ~~~bit

/-- FSET from the clamped ROWS: `N` where there is more than one row; `DL` and `F` are always 0 (10_state R19). -/
def functionSetFlags (rows : Nat) : Byte := if rows > 1 then flagN else 0x00

/-- Display control, `C_DISPLAYCTL | DCTL` (30_encoding R68). -/
def displayCommand (s : State) : Byte := s.cfg.cDisplayCtl ||| s.dctl

/-- Entry-mode set, `C_ENTRYMODE | EMODE` (30_encoding R68). -/
def entryModeCommand (s : State) : Byte := s.cfg.cEntryMode ||| s.emode

/-- Function set, `C_FUNCTIONSET | FSET` (30_encoding R68). -/
def functionSetCommand (s : State) : Byte := s.cfg.cFunctionSet ||| s.fset

/-- Display shift left, `C_SHIFT | 0x08` (30_encoding R68, 43_feature_toggles R151). -/
def shiftLeftCommand (c : Config) : Byte := c.cShift ||| shiftDisplay

/-- Display shift right, `C_SHIFT | 0x08 | 0x04` (30_encoding R68, 43_feature_toggles R152). -/
def shiftRightCommand (c : Config) : Byte := c.cShift ||| shiftDisplay ||| shiftRight

end Sys2Proof.Machine
end

