-- ==== Sys2Proof/Machine/Nibble.lean ====
section
/-! DEFINITION. The bytes the encoder hands to the Transport Adapter (30_encoding R61 to R67): mode bits, backlight
bits, nibble assembly, the strobe pair's enable bit, the mode byte and the raw byte. Every bit position is a field of
CFG but the nibble's, which is bits 7:4. -/

namespace Sys2Proof.Machine

/-- `M(mode)`, the register-select bit (30_encoding R62). -/
def modeBits (c : Config) : Mode → Byte
  | .cmd => 0x00
  | .data => c.rsMask

/-- `BLBITS`, the backlight bit every emitted byte carries (00_scope section 6, 10_state R16). -/
def blBits (c : Config) (bl : Bool) : Byte := if bl then c.blMask else 0x00

/-- `HI(v, m)`: bits 7:4 of `v` in bits 7:4 (30_encoding R63). -/
def hiNibble (c : Config) (bl : Bool) (v : Byte) (m : Mode) : Byte := (v &&& 0xF0) ||| modeBits c m ||| blBits c bl

/-- `LO(v, m)`: bits 3:0 of `v` in bits 7:4 (30_encoding R63). -/
def loNibble (c : Config) (bl : Bool) (v : Byte) (m : Mode) : Byte :=
  ((v <<< 4) &&& 0xF0) ||| modeBits c m ||| blBits c bl

/-- The byte with the enable strobe set, the first of a strobe pair (30_encoding R64). -/
def strobed (c : Config) (x : Byte) : Byte := x ||| c.enMask

/-- The mode byte: mode and backlight bits, no enable strobe (30_encoding R65). -/
def modeByte (c : Config) (bl : Bool) (m : Mode) : Byte := modeBits c m ||| blBits c bl

/-- A raw byte with the backlight bit or-ed in (30_encoding R67). -/
def rawByte (c : Config) (bl : Bool) (v : Byte) : Byte := v ||| blBits c bl

end Sys2Proof.Machine
end

