-- ==== Sys2Proof/Machine/Operands.lean ====
section
/-! DEFINITION. What an operation makes of its operands: the silent clamps (60_exceptions R192) and the display-RAM
and glyph addresses. All arithmetic is on natural numbers and nothing wraps (41_text_cursor R114). -/

namespace Sys2Proof.Machine

/-- `min(max(v, 1), most)`, the clamp of INIT's rows and columns (10_state R15, 44_init R173). -/
def clampGeometry (v : Byte) (most : Nat) : Nat := min (max v.toNat 1) most

/-- `min(v, count - 1)`, the clamp of SETCURSOR's line and position to `[0, count-1]` (41_text_cursor R113). -/
def clampIndex (v count : Nat) : Nat := min v (count - 1)

/-- `min(slot, MAX_SLOT)`, the clamp of CREATECHAR's slot (42_glyphs R131). -/
def clampSlot (c : Config) (slot : Byte) : Byte := BitVec.ofNat 8 (min slot.toNat c.maxSlot)

/-- The display-RAM address `ROWBASE[line] + position`, a 7-bit value (20_memory R45, 41_text_cursor R113); none where
the table has no such line or the sum leaves 7 bits, which R7 rules out. -/
def ddramAddress (c : Config) (line position : Nat) : Option (BitVec 7) :=
  match c.rowBase[line]? with
  | some base => if base.toNat + position ≤ 0x7F then some (BitVec.ofNat 7 (base.toNat + position)) else none
  | none => none

/-- The set-DDRAM-address command `C_SETDDRAM | a` (30_encoding R68). -/
def setDdramCommand (c : Config) (a : BitVec 7) : Byte := c.cSetDdram ||| a.setWidth 8

/-- The CGRAM-select command `C_SETCGRAM | (slot << 3)` (30_encoding R68, 42_glyphs R131). -/
def setCgramCommand (c : Config) (slot : Byte) : Byte := c.cSetCgram ||| (clampSlot c slot <<< 3)

end Sys2Proof.Machine
end

