-- ==== Sys2Proof/Machine/Ops.lean ====
section
/-! DEFINITION. The procedures every operation is built from (40_encoder_primitives R90 to R93, 41_text_cursor R113,
44_init R171 to R178), the admission check (60_exceptions R195) and the command port's reading.
The hardware has no exception: no trap entry, no saved state, no return (60_exceptions R190, R197), so none stands here. -/

namespace Sys2Proof.Machine

/-- FILL, the number of pending bytes (10_state R22). -/
def State.fill (s : State) : Nat := s.buf.length

/-- `BUF[i]`; an index at or beyond FILL holds no value (10_state R23). -/
def State.bufByte (s : State) (i : Nat) : Option Byte := s.buf[i]?

/-- The output buffer as memory cells: index and byte of every pending byte, the indexes that hold a value
(20_memory R40, 10_state R23). -/
def State.memory (s : State) : List Host.Cell := s.buf.zipIdx.map fun c => (c.2, c.1)

/-- The canonical form of a list of cells: addresses strictly rising. An unlisted index holds no value, so no entry
equals what an unlisted one reads as. -/
abbrev Memory.wf (m : List Host.Cell) : Prop := m.Pairwise fun a b => a.1 < b.1

/-- `emit e`: append one event to OUT (10_state R24). -/
def State.emit (s : State) (e : Event) : State := { s with out := s.out ++ [e] }

/-- `emit DLY(us)`, the only wait there is: a fixed request, which nothing from the controller shortens or prolongs
(60_exceptions R199, 70_reset_and_hazards R221). -/
def State.delay (s : State) (us : Nat) : State := s.emit (.dly us)

/-- `AppendRaw(b)`: `BUF[FILL] <- b; FILL <- FILL + 1` (40_encoder_primitives R90). -/
def State.appendRaw (s : State) (b : Byte) : State := { s with buf := s.buf ++ [b] }

/-- `Show()` without its result: nothing on an empty buffer, else one block write of the pending bytes to ADDR and
`FILL <- 0` (40_encoder_primitives R91). -/
def State.flush (s : State) : State :=
  if s.buf.isEmpty then s else { s.emit (.bw s.addr s.buf) with buf := [] }

/-- The number of bytes `Show()` transmits (40_encoder_primitives R91). -/
def State.flushCount (s : State) : Nat := s.fill

/-- Deliver `n` on the result port (10_state R25). -/
def State.deliver (s : State) (n : Nat) : State := { s with results := s.results ++ [n] }

/-- The implicit flush: `if FILL + n > CAP then Show()` (40_encoder_primitives R92, R93). -/
def State.ensureRoom (s : State) (n : Nat) : State := if s.fill + n > s.cfg.cap then s.flush else s

/-- `if not buf then Show()`. -/
def State.flushUnless (s : State) (buf : Bool) : State := if buf then s else s.flush

/-- `WriteByte(v, buf)` (40_encoder_primitives R92). -/
def State.writeRaw (s : State) (v : Byte) (buf : Bool) : State :=
  let s := s.ensureRoom 1
  let s := s.appendRaw (rawByte s.cfg s.bl v)
  s.flushUnless buf

/-- Step (2) of `SendByte`: the mode byte, only on a change, and the tracker's update (40_encoder_primitives R93). -/
def State.selectMode (s : State) (m : Mode) : State :=
  if s.lastMode = some m then s else { s.appendRaw (modeByte s.cfg s.bl m) with lastMode := some m }

/-- Step (3) of `SendByte`: two strobe pairs, high nibble first (40_encoder_primitives R93). -/
def State.appendNibbles (s : State) (v : Byte) (m : Mode) : State :=
  let hi := hiNibble s.cfg s.bl v m
  let lo := loNibble s.cfg s.bl v m
  (((s.appendRaw (strobed s.cfg hi)).appendRaw hi).appendRaw (strobed s.cfg lo)).appendRaw lo

/-- `SendByte(v, mode, buf)` (40_encoder_primitives R93): the room check is against 5 whether or not a mode byte
follows. It requests no delay, so two transfers follow each other without a wait (70_reset_and_hazards R221). -/
def State.sendByte (s : State) (v : Byte) (m : Mode) (buf : Bool) : State :=
  (((s.ensureRoom 5).selectMode m).appendNibbles v m).flushUnless buf

/-- `SendByte(d, DATA, true)` for each byte in order (41_text_cursor R111, 42_glyphs R130). -/
def State.sendAll (s : State) (data : List Byte) : State := data.foldl (fun s d => s.sendByte d .data true) s

/-- `SetCursorProc(line, position, buf)` (41_text_cursor R113). -/
def State.setCursorProc (s : State) (line position : Nat) (buf : Bool) : Answer :=
  match ddramAddress s.cfg (clampIndex line s.rows) (clampIndex position s.cols) with
  | some a => .next (s.sendByte (setDdramCommand s.cfg a) .cmd buf)
  | none => .fault .noDisplayAddress

/-- `RawNibble(k)`: one strobe pair through `WriteByte`, then a flush; `k` is a 4-bit value (44_init R174). -/
def State.rawNibble (s : State) (k : BitVec 4) : State :=
  (s.writeRaw (strobed s.cfg (k.setWidth 8 <<< 4)) true).writeRaw (k.setWidth 8 <<< 4) false

/-- `INITSTATE <- i` (44_init R179). -/
def State.enter (s : State) (i : InitState) : State := { s with initState := i }

/-- The supersession flush: a live Session's pending bytes go to the old ADDR (44_init R171). -/
def State.supersede (s : State) : State := if s.initState = .cleared then s.flush else s

/-- The register reset of INIT (44_init R172, 10_state R28); FSET comes from the clamped ROWS. -/
def State.resetSession (s : State) (address columns rows : Byte) : State :=
  { s with
    initState := .unknown
    addr := address
    rows := clampGeometry rows s.cfg.maxRows
    cols := clampGeometry columns s.cfg.maxCols
    bl := s.cfg.blReset
    dctl := s.cfg.dctlReset
    emode := s.cfg.emodeReset
    fset := functionSetFlags (clampGeometry rows s.cfg.maxRows)
    lastMode := none
    buf := [] }

/-- Nibble synchronisation: three raw `0x3`, each followed by its delay (44_init R175, R179). -/
def State.synchronise (s : State) : State :=
  let s := ((s.rawNibble 0x3).enter .nibbleSync1).delay s.cfg.tSync1
  let s := ((s.rawNibble 0x3).enter .nibbleSync2).delay s.cfg.tSync2
  ((s.rawNibble 0x3).enter .nibbleSync3).delay s.cfg.tSync3

/-- 4-bit selection: raw `0x2`, no delay (44_init R176, R179). -/
def State.selectFourBit (s : State) : State := (s.rawNibble 0x2).enter .fourBitSelected

/-- Configuration: entry mode, function set, display control, in that order and buffered (44_init R177, R179). -/
def State.configure (s : State) : State :=
  let s := s.sendByte (entryModeCommand s) .cmd true
  let s := s.sendByte (functionSetCommand s) .cmd true
  (s.sendByte (displayCommand s) .cmd true).enter .configured

/-- The clear command, its flush and its delay: CLEAR, and the end of INIT (41_text_cursor R115, 44_init R178). -/
def State.clearDisplay (s : State) : State := (s.sendByte s.cfg.cClear .cmd false).delay s.cfg.tClear

/-- The home command, its flush and its delay (41_text_cursor R116). -/
def State.homeDisplay (s : State) : State := (s.sendByte s.cfg.cHome .cmd false).delay s.cfg.tHome

/-- The fixed power-on sequence after the register reset (44_init R170, R179). -/
def State.powerOnSequence (s : State) : State := (s.synchronise.selectFourBit.configure.clearDisplay).enter .cleared

/-- Re-emit the whole display-control byte after `DCTL <- v` (43_feature_toggles R140). -/
def State.updateDisplay (s : State) (v : Byte) : State :=
  let s := { s with dctl := v }
  s.sendByte (displayCommand s) .cmd false

/-- Re-emit the whole entry-mode byte after `EMODE <- v` (43_feature_toggles R140). -/
def State.updateEntryMode (s : State) (v : Byte) : State :=
  let s := { s with emode := v }
  s.sendByte (entryModeCommand s) .cmd false

/-- `BL <- v`, then the one raw byte of a backlight-only update (43_feature_toggles R153, R154). -/
def State.updateBacklight (s : State) (v : Bool) : State := { s with bl := v }.writeRaw 0x00 false

/-- The machine is built only for a well-formed configuration (60_exceptions R195, IllFormedConfig). -/
def State.built (s : State) (run : State → Answer) : Answer :=
  if s.cfg.WF then run s else .refused .illFormedConfig

/-- Admission of every operation but INIT: refused while INITSTATE is not Cleared (60_exceptions R195). -/
def State.admitted (s : State) (run : State → Answer) : Answer :=
  s.built fun s => if s.initState = .cleared then run s else .refused .uninitialised

/-- What the command port offers. -/
inductive Fetched where
  /-- No byte is waiting. -/
  | idle
  /-- The waiting bytes select no operation. -/
  | invalid (why : Reject)
  /-- One operation, and the bytes after it. -/
  | op (i : Instr) (rest : List Byte)
  deriving DecidableEq, Repr

/-- Read one operation from the command port (30_encoding R71, R75). -/
def fetch : List Byte → Fetched
  | [] => .idle
  | h :: rest =>
    match decode (h :: rest) with
    | .error why => .invalid why
    | .ok (i, tail) => .op i tail

/-- The bytes left on the command port. -/
def State.withPort (s : State) (rest : List Byte) : State := { s with port := rest }

/-- After an Uninitialised refusal the operation's bytes stay consumed, the Session and OUT stay as they were, and the
run is marked as containing a refusal (60_exceptions R195); every other answer stands. `s` has the bytes consumed. -/
def settle (s : State) (answer : Answer) : Answer :=
  match answer with
  | .refused .uninitialised => .next { s with containsRefusal := true }
  | .refused r => .refused r
  | .fault f => .fault f
  | .next t => .next t

/-- The caller issues bytes ahead of those still waiting on the command port. -/
def State.issue (s : State) (bytes : List Byte) : State := { s with port := bytes ++ s.port }

end Sys2Proof.Machine
end

