-- ==== Sys2Proof/Machine/Backlight.lean ====
section
/-! DEFINITION. BACKLIGHT and NOBACKLIGHT (43_feature_toggles R153, R154); LASTMODE is not changed (R153,
70_reset_and_hazards R217). -/

namespace Sys2Proof.Machine

/-- `BACKLIGHT` (43_feature_toggles R153). -/
def execBacklight (s : State) : Answer := s.admitted fun s => .next (s.updateBacklight true)

/-- `NOBACKLIGHT` (43_feature_toggles R154). -/
def execNoBacklight (s : State) : Answer := s.admitted fun s => .next (s.updateBacklight false)

end Sys2Proof.Machine
end

