-- ==== Sys2Proof/Machine/Cursor.lean ====
section
/-! DEFINITION. SETCURSOR, CLEAR and HOME (41_text_cursor R113 to R116). -/

namespace Sys2Proof.Machine

/-- `SETCURSOR line, position` (41_text_cursor R113). -/
def execSetCursor (b : Bool) (line position : Byte) (s : State) : Answer :=
  s.admitted fun s => s.setCursorProc line.toNat position.toNat b

/-- `CLEAR` (41_text_cursor R115). -/
def execClear (s : State) : Answer := s.admitted fun s => .next s.clearDisplay

/-- `HOME` (41_text_cursor R116). -/
def execHome (s : State) : Answer := s.admitted fun s => .next s.homeDisplay

end Sys2Proof.Machine
end

