-- ==== Sys2Proof/Machine/GlyphLoad.lean ====
section
/-! DEFINITION. CREATECHAR (42_glyphs R130 to R133). -/

namespace Sys2Proof.Machine

/-- `CREATECHAR slot, b0 .. b7` (42_glyphs R130): the select and the rows buffered, all eight bits of each row sent
(R132), then `SetCursorProc(0, 0, false)`. -/
def execCreateChar (slot : Byte) (bitmap : Glyph) (s : State) : Answer :=
  s.admitted fun s =>
    ((s.sendByte (setCgramCommand s.cfg slot) .cmd true).sendAll bitmap.rows).setCursorProc 0 0 false

end Sys2Proof.Machine
end

