-- ==== Sys2Proof/Machine/Init.lean ====
section
/-! DEFINITION. INIT (44_init R170 to R182). -/

namespace Sys2Proof.Machine

/-- `INIT address, columns, rows`, admitted in every INITSTATE (44_init R170): supersession flush, register reset, then
the fixed sequence. -/
def execInit (address columns rows : Byte) (s : State) : Answer :=
  s.built fun s => .next (s.supersede.resetSession address columns rows).powerOnSequence

end Sys2Proof.Machine
end

