-- ==== Sys2Proof/Machine/Primitives.lean ====
section
/-! DEFINITION. SHOW and the two primitives on the command port (40_encoder_primitives R100 to R103). -/

namespace Sys2Proof.Machine

/-- `SHOW` (40_encoder_primitives R100): flush, and the number of bytes sent on the result port. -/
def execShowBuffer (s : State) : Answer := s.admitted fun s => .next (s.flush.deliver s.flushCount)

/-- `SENDCMD v` (40_encoder_primitives R101); no flag register and no delay, whatever `v` is. -/
def execSendCmd (b : Bool) (v : Byte) (s : State) : Answer := s.admitted fun s => .next (s.sendByte v .cmd b)

/-- `SENDDATA v` (40_encoder_primitives R102). -/
def execSendData (b : Bool) (v : Byte) (s : State) : Answer := s.admitted fun s => .next (s.sendByte v .data b)

/-- `WRITEBYTE v` (40_encoder_primitives R103). -/
def execWriteByte (b : Bool) (v : Byte) (s : State) : Answer := s.admitted fun s => .next (s.writeRaw v b)

end Sys2Proof.Machine
end

