-- ==== Sys2Proof/Machine/Text.lean ====
section
/-! DEFINITION. Character writes: WRITECHAR and WRITE (41_text_cursor R110 to R112). -/

namespace Sys2Proof.Machine

/-- `WRITECHAR c` (41_text_cursor R110). -/
def execWriteChar (b : Bool) (c : Byte) (s : State) : Answer :=
  s.admitted fun s => .next (s.sendByte c .data b)

/-- `WRITE n, d[0..n-1]` (41_text_cursor R111): every byte buffered, then one flush unless `B`. -/
def execWrite (b : Bool) (data : List Byte) (s : State) : Answer :=
  s.admitted fun s => .next ((s.sendAll data).flushUnless b)

end Sys2Proof.Machine
end

