-- ==== Sys2Proof/Machine/Toggles.lean ====
section
/-! DEFINITION. The feature toggles and the scroll commands (43_feature_toggles R140 to R152). -/

namespace Sys2Proof.Machine

/-- `DISPLAY` (43_feature_toggles R141). -/
def execDisplay (s : State) : Answer := s.admitted fun s => .next (s.updateDisplay (setFlag s.dctl flagD))

/-- `NODISPLAY` (43_feature_toggles R142). -/
def execNoDisplay (s : State) : Answer := s.admitted fun s => .next (s.updateDisplay (clearFlag s.dctl flagD))

/-- `CURSOR` (43_feature_toggles R143). -/
def execCursor (s : State) : Answer := s.admitted fun s => .next (s.updateDisplay (setFlag s.dctl flagC))

/-- `NOCURSOR` (43_feature_toggles R144). -/
def execNoCursor (s : State) : Answer := s.admitted fun s => .next (s.updateDisplay (clearFlag s.dctl flagC))

/-- `BLINK` (43_feature_toggles R145). -/
def execBlink (s : State) : Answer := s.admitted fun s => .next (s.updateDisplay (setFlag s.dctl flagB))

/-- `NOBLINK` (43_feature_toggles R146). -/
def execNoBlink (s : State) : Answer := s.admitted fun s => .next (s.updateDisplay (clearFlag s.dctl flagB))

/-- `AUTOSCROLL` (43_feature_toggles R147). -/
def execAutoscroll (s : State) : Answer := s.admitted fun s => .next (s.updateEntryMode (setFlag s.emode flagS))

/-- `NOAUTOSCROLL` (43_feature_toggles R148). -/
def execNoAutoscroll (s : State) : Answer := s.admitted fun s => .next (s.updateEntryMode (clearFlag s.emode flagS))

/-- `LEFTTORIGHT` (43_feature_toggles R149). -/
def execLeftToRight (s : State) : Answer := s.admitted fun s => .next (s.updateEntryMode (setFlag s.emode flagID))

/-- `RIGHTTOLEFT` (43_feature_toggles R150). -/
def execRightToLeft (s : State) : Answer := s.admitted fun s => .next (s.updateEntryMode (clearFlag s.emode flagID))

/-- `SCROLLLEFT`, a one-shot shift command (43_feature_toggles R151). -/
def execScrollLeft (s : State) : Answer :=
  s.admitted fun s => .next (s.sendByte (shiftLeftCommand s.cfg) .cmd false)

/-- `SCROLLRIGHT`, a one-shot shift command (43_feature_toggles R152). -/
def execScrollRight (s : State) : Answer :=
  s.admitted fun s => .next (s.sendByte (shiftRightCommand s.cfg) .cmd false)

end Sys2Proof.Machine
end

