-- ==== Sys2Proof/Machine/Dispatch.lean ====
section
/-! DEFINITION. One arm per operation (30_encoding R72). -/

namespace Sys2Proof.Machine

def exec (i : Instr) (s : State) : Host.Outcome State Fault Refusal :=
  match i with
  | .init address columns rows => Sys2Proof.Machine.execInit address columns rows s
  | .writeChar b c => Sys2Proof.Machine.execWriteChar b c s
  | .write b data => Sys2Proof.Machine.execWrite b data s
  | .setCursor b line position => Sys2Proof.Machine.execSetCursor b line position s
  | .clear => Sys2Proof.Machine.execClear s
  | .home => Sys2Proof.Machine.execHome s
  | .backlight => Sys2Proof.Machine.execBacklight s
  | .noBacklight => Sys2Proof.Machine.execNoBacklight s
  | .cursor => Sys2Proof.Machine.execCursor s
  | .noCursor => Sys2Proof.Machine.execNoCursor s
  | .blink => Sys2Proof.Machine.execBlink s
  | .noBlink => Sys2Proof.Machine.execNoBlink s
  | .display => Sys2Proof.Machine.execDisplay s
  | .noDisplay => Sys2Proof.Machine.execNoDisplay s
  | .scrollLeft => Sys2Proof.Machine.execScrollLeft s
  | .scrollRight => Sys2Proof.Machine.execScrollRight s
  | .autoscroll => Sys2Proof.Machine.execAutoscroll s
  | .noAutoscroll => Sys2Proof.Machine.execNoAutoscroll s
  | .leftToRight => Sys2Proof.Machine.execLeftToRight s
  | .rightToLeft => Sys2Proof.Machine.execRightToLeft s
  | .createChar slot bitmap => Sys2Proof.Machine.execCreateChar slot bitmap s
  | .showBuffer => Sys2Proof.Machine.execShowBuffer s
  | .sendCmd b v => Sys2Proof.Machine.execSendCmd b v s
  | .sendData b v => Sys2Proof.Machine.execSendData b v s
  | .writeByte b v => Sys2Proof.Machine.execWriteByte b v s

end Sys2Proof.Machine
end

