-- ==== Sys2Proof/Machine/Step.lean ====
section
/-! DEFINITION. One step: the next operation on the command port, run whole (00_scope R8). The checks stand in the
order of 60_exceptions R196: configuration, encoding, initialisation. -/

namespace Sys2Proof.Machine

/-- One step. With nothing on the command port the encoder does nothing (70_reset_and_hazards R210; log entry 3). It is a
function of State alone, and State holds no input but the command port: the encoder polls nothing and never waits for the
controller (60_exceptions R191, 70_reset_and_hazards R221). -/
def step (s : State) : Host.Outcome State Fault Refusal :=
  s.built fun s =>
    match fetch s.port with
    | .idle => .next s
    | .invalid why => .refused (.invalidEncoding why)
    | .op i rest => settle (s.withPort rest) (exec i (s.withPort rest))

/-- `s` with the instruction of a table word issued on the command port, ahead of what waits there. -/
def State.withFetchWord (s : State) (nbits w : Nat) : State := s.issue (issuedTableBytes nbits w)

end Sys2Proof.Machine
end

