-- ==== Sys2Proof/Safety.lean ====
section
/-! DEFINITION. The terms claims use: when an operation is admitted, the invariant of a legal run, what an observer sees
(00_scope R9, 20_memory R51, R55), and the closed form of a state after one transfer. -/

namespace Sys2Proof.Machine

/-- Every operation is admitted: CFG is well formed and INIT has completed (60_exceptions R195). -/
abbrev State.Ready (s : State) : Prop := s.cfg.WF ∧ s.initState = .cleared

/-- CFG's two flag reset values keep the reserved bits 0 (10_state R17, R18; log entry 11). -/
abbrev FlagResetsClean (c : Config) : Prop := c.dctlReset &&& 0xF8 = 0 ∧ c.emodeReset &&& 0xFC = 0

/-- A block write carries 1 to CAP bytes (10_state R24, 20_memory R49). -/
def Event.legal (cap : Nat) : Event → Bool
  | .bw _ bytes => decide (1 ≤ bytes.length ∧ bytes.length ≤ cap)
  | .dly _ => true

/-- The registers of an initialised Session are in the ranges of 10_state R15 and R17 to R20. -/
abbrev State.SessionLegal (s : State) : Prop :=
  (1 ≤ s.rows ∧ s.rows ≤ s.cfg.maxRows) ∧ (1 ≤ s.cols ∧ s.cols ≤ s.cfg.maxCols) ∧
  s.dctl &&& 0xF8 = 0 ∧ s.emode &&& 0xFC = 0 ∧ s.fset = functionSetFlags s.rows ∧ s.lastMode ≠ none

/-- The invariant: CFG well formed; FILL at most CAP (R22); every block write of OUT legal (R24); every result at most
CAP (R25); between operations INITSTATE is Unknown or Cleared (R13); and a cleared Session is legal. -/
abbrev State.Inv (s : State) : Prop :=
  s.cfg.WF ∧ FlagResetsClean s.cfg ∧ s.fill ≤ s.cfg.cap ∧ (∀ e ∈ s.out, e.legal s.cfg.cap = true) ∧
  (∀ n ∈ s.results, n ≤ s.cfg.cap) ∧ (s.initState = .unknown ∨ s.initState = .cleared) ∧
  (s.initState = .cleared → s.SessionLegal)

/-- A run is safe when it contains no refusal (60_exceptions R195). -/
abbrev State.SafeRun (s : State) : Prop := s.containsRefusal = false

/-- What stands on the bus side in order: each byte with the address it goes to, and each delay request. -/
inductive WireItem where
  | byte (addr b : Byte)
  | delay (us : Nat)
  deriving DecidableEq, Repr

/-- The bytes of one event (20_memory R55). -/
def Event.bytes : Event → List Byte
  | .bw _ bytes => bytes
  | .dly _ => []

/-- One event as wire items. -/
def Event.wire : Event → List WireItem
  | .bw addr bytes => bytes.map (.byte addr)
  | .dly us => [.delay us]

/-- `full = stream(OUT) ++ BUF[0..FILL-1]` (20_memory R55). -/
def State.full (s : State) : List Byte := s.out.flatMap Event.bytes ++ s.buf

/-- `full` with each byte's address and the delays at their places; a pending byte stands with ADDR. -/
def State.wire (s : State) : List WireItem := s.out.flatMap Event.wire ++ s.buf.map (.byte s.addr)

/-- The bytes of one logical transfer (30_encoding R66): the mode byte only on a change, then two strobe pairs. -/
def logicalTransfer (c : Config) (bl : Bool) (last : Option Mode) (v : Byte) (m : Mode) : List Byte :=
  (if last = some m then [] else [modeByte c bl m]) ++
  [hiNibble c bl v m ||| c.enMask, hiNibble c bl v m, loNibble c bl v m ||| c.enMask, loNibble c bl v m]

/-- The bytes of successive logical transfers from tracker value `last` (40_encoder_primitives R94, R95). -/
def logicalTransfers (c : Config) (bl : Bool) : Option Mode → List (Mode × Byte) → List Byte
  | _, [] => []
  | last, (m, v) :: rest => logicalTransfer c bl last v m ++ logicalTransfers c bl (some m) rest

/-- `s` after `bytes` were appended as one unit behind a room check for `room` bytes, and flushed unless `buf`: the
pending bytes leave first, in a block write of their own, only where the room check fails. -/
def State.afterBytes (s : State) (room : Nat) (bytes : List Byte) (buf : Bool) : State :=
  let fits := decide (s.fill + room ≤ s.cfg.cap)
  let sent := if fits then s.out else s.out ++ [.bw s.addr s.buf]
  let pending := (if fits then s.buf else []) ++ bytes
  { s with
    out := if buf then sent else sent ++ [.bw s.addr pending]
    buf := if buf then pending else [] }

/-- `s` after one logical transfer. -/
def State.afterTransfer (s : State) (v : Byte) (m : Mode) (buf : Bool) : State :=
  { s.afterBytes 5 (logicalTransfer s.cfg s.bl s.lastMode v m) buf with lastMode := some m }

/-- `s` after one raw byte. -/
def State.afterRaw (s : State) (v : Byte) (buf : Bool) : State := s.afterBytes 1 [v ||| blBits s.cfg s.bl] buf

/-- `s` after a DATA transfer for each byte, all buffered. -/
def State.afterData (s : State) (data : List Byte) : State :=
  data.foldl (fun s d => s.afterTransfer d .data true) s

/-- `s` with one delay request after everything else. -/
def State.afterDelay (s : State) (us : Nat) : State := { s with out := s.out ++ [.dly us] }

/-- `s` with everything pending handed over in one block write, or as it is with nothing pending. -/
def State.afterShow (s : State) : State :=
  { s with out := s.out ++ (if s.buf = [] then [] else [.bw s.addr s.buf]), buf := [] }

/-- The operation without its `bufferingEnabled` operand. -/
def dropB : Instr → Instr
  | .init a c r => .init a c r
  | .writeChar _ c => .writeChar false c
  | .write _ data => .write false data
  | .setCursor _ l p => .setCursor false l p
  | .clear => .clear
  | .home => .home
  | .backlight => .backlight
  | .noBacklight => .noBacklight
  | .cursor => .cursor
  | .noCursor => .noCursor
  | .blink => .blink
  | .noBlink => .noBlink
  | .display => .display
  | .noDisplay => .noDisplay
  | .scrollLeft => .scrollLeft
  | .scrollRight => .scrollRight
  | .autoscroll => .autoscroll
  | .noAutoscroll => .noAutoscroll
  | .leftToRight => .leftToRight
  | .rightToLeft => .rightToLeft
  | .createChar slot g => .createChar slot g
  | .showBuffer => .showBuffer
  | .sendCmd _ v => .sendCmd false v
  | .sendData _ v => .sendData false v
  | .writeByte _ v => .writeByte false v

/-- Operations one after another (00_scope R8), stopping at the first that has no next state. -/
def runOps : List Instr → State → Answer
  | [], s => .next s
  | i :: rest, s =>
    match exec i s with
    | .next t => runOps rest t
    | .fault f => .fault f
    | .refused r => .refused r

end Sys2Proof.Machine
end

