-- ==== Sys2Proof/Certificates/Slice0/Obligations.lean ====
section
/-! DEFINITION. The statements for the provers. Each docstring names the rules it formalises; the numbers of the spec's
own encoding and bit positions are its decisions D1 to D3 (92_eei_decisions). -/

open Sys2Proof Sys2Proof.Machine

namespace Sys2Proof.Claims

/-- INIT with some operands, the one operation admitted in every INITSTATE (R170). -/
def IsInit (i : Instr) : Prop := ∃ a c r, i = .init a c r

/-- SENDCMD or SENDDATA, by mode (R101, R102). -/
def send (m : Mode) (b : Bool) (v : Byte) : Instr :=
  match m with
  | .cmd => .sendCmd b v
  | .data => .sendData b v

/-- `ROWBASE[line] + position` (R113) as the low bits of a byte; a line the table lacks counts as 0 here, and every
statement that uses it assumes the line is in the table. -/
def cursorTarget (c : Config) (line position : Nat) : Byte :=
  BitVec.ofNat 8 ((c.rowBase[line]?.getD 0).toNat + position)

/-- The set-DDRAM-address byte SETCURSOR sends: clamped line, clamped position (R113). -/
def cursorCommand (s : State) (line position : Byte) : Byte :=
  s.cfg.cSetDdram ||| cursorTarget s.cfg (min line.toNat (s.rows - 1)) (min position.toNat (s.cols - 1))

/-- The CGRAM-select byte of a slot, clamped (R130, R131). -/
def glyphCommand (c : Config) (slot : Byte) : Byte :=
  c.cSetCgram ||| BitVec.ofNat 8 (min slot.toNat c.maxSlot * 8)

/-- The four configuration and clear bytes of INIT (R177, R178), with `rows` already clamped. -/
def initTransfers (c : Config) (rows : Nat) : List (Mode × Byte) :=
  [(.cmd, c.cEntryMode ||| c.emodeReset), (.cmd, c.cFunctionSet ||| (if rows > 1 then 0x08 else 0x00)),
    (.cmd, c.cDisplayCtl ||| c.dctlReset), (.cmd, c.cClear)]

/-- The two bytes of one raw nibble of INIT, `k` its value in bits 7:4 (R174), under the reset backlight bit. -/
def rawPair (c : Config) (k : Byte) : List Byte :=
  [k ||| c.enMask ||| blBits c c.blReset, k ||| blBits c c.blReset]

/-- `min(max(rows,1),MAX_ROWS)` and the same for columns (R15). -/
def geometry (v : Byte) (most : Nat) : Nat := min (max v.toNat 1) most

/-- The events INIT emits to `a` after the register reset when CAP is at least 18 (R170, R175 to R178). -/
def initEvents (c : Config) (a : Byte) (rows : Nat) : List Event :=
  [.bw a (rawPair c 0x30), .dly c.tSync1, .bw a (rawPair c 0x30), .dly c.tSync2,
    .bw a (rawPair c 0x30), .dly c.tSync3, .bw a (rawPair c 0x20),
    .bw a (logicalTransfers c c.blReset none (initTransfers c rows)), .dly c.tClear]

/-- The same as wire items, whatever CAP is (R55). -/
def initWire (c : Config) (a : Byte) (rows : Nat) : List WireItem :=
  (initEvents c a rows).flatMap Event.wire

/-- The Session INIT leaves (R172, R211), the trace and what is not the Session taken from `s`. -/
def initialised (s : State) (a c r : Byte) : State :=
  { s with
    initState := .cleared
    addr := a
    rows := geometry r s.cfg.maxRows
    cols := geometry c s.cfg.maxCols
    bl := s.cfg.blReset
    dctl := s.cfg.dctlReset
    emode := s.cfg.emodeReset
    fset := if geometry r s.cfg.maxRows > 1 then 0x08 else 0x00
    lastMode := some .cmd
    buf := [] }

/-- The logical bytes an admitted operation sends in 4-bit mode (R97), in order. -/
def transfersOf (s : State) : Instr → List (Mode × Byte)
  | .init _ _ _ => []
  | .writeChar _ c => [(.data, c)]
  | .write _ data => data.map fun d => (.data, d)
  | .setCursor _ line position => [(.cmd, cursorCommand s line position)]
  | .clear => [(.cmd, s.cfg.cClear)]
  | .home => [(.cmd, s.cfg.cHome)]
  | .backlight => []
  | .noBacklight => []
  | .cursor => [(.cmd, s.cfg.cDisplayCtl ||| (s.dctl ||| 0x02))]
  | .noCursor => [(.cmd, s.cfg.cDisplayCtl ||| (s.dctl &&& 0xFD))]
  | .blink => [(.cmd, s.cfg.cDisplayCtl ||| (s.dctl ||| 0x01))]
  | .noBlink => [(.cmd, s.cfg.cDisplayCtl ||| (s.dctl &&& 0xFE))]
  | .display => [(.cmd, s.cfg.cDisplayCtl ||| (s.dctl ||| 0x04))]
  | .noDisplay => [(.cmd, s.cfg.cDisplayCtl ||| (s.dctl &&& 0xFB))]
  | .scrollLeft => [(.cmd, s.cfg.cShift ||| 0x08)]
  | .scrollRight => [(.cmd, s.cfg.cShift ||| 0x0C)]
  | .autoscroll => [(.cmd, s.cfg.cEntryMode ||| (s.emode ||| 0x01))]
  | .noAutoscroll => [(.cmd, s.cfg.cEntryMode ||| (s.emode &&& 0xFE))]
  | .leftToRight => [(.cmd, s.cfg.cEntryMode ||| (s.emode ||| 0x02))]
  | .rightToLeft => [(.cmd, s.cfg.cEntryMode ||| (s.emode &&& 0xFD))]
  | .createChar slot g =>
    (.cmd, glyphCommand s.cfg slot) :: g.rows.map (fun d => (.data, d)) ++
      [(.cmd, s.cfg.cSetDdram ||| cursorTarget s.cfg 0 0)]
  | .showBuffer => []
  | .sendCmd _ v => [(.cmd, v)]
  | .sendData _ v => [(.data, v)]
  | .writeByte _ _ => []

/-- The raw bytes an admitted operation other than INIT sends (R42, R92). -/
def rawsOf (s : State) : Instr → List Byte
  | .init _ _ _ => []
  | .writeChar _ _ => []
  | .write _ _ => []
  | .setCursor _ _ _ => []
  | .clear => []
  | .home => []
  | .backlight => [s.cfg.blMask]
  | .noBacklight => [0x00]
  | .cursor => []
  | .noCursor => []
  | .blink => []
  | .noBlink => []
  | .display => []
  | .noDisplay => []
  | .scrollLeft => []
  | .scrollRight => []
  | .autoscroll => []
  | .noAutoscroll => []
  | .leftToRight => []
  | .rightToLeft => []
  | .createChar _ _ => []
  | .showBuffer => []
  | .sendCmd _ _ => []
  | .sendData _ _ => []
  | .writeByte _ v => [v ||| blBits s.cfg s.bl]

/-- The delays an operation requests (R199). -/
def delaysOf (c : Config) : Instr → List Nat
  | .init _ _ _ => [c.tSync1, c.tSync2, c.tSync3, c.tClear]
  | .writeChar _ _ => []
  | .write _ _ => []
  | .setCursor _ _ _ => []
  | .clear => [c.tClear]
  | .home => [c.tHome]
  | .backlight => []
  | .noBacklight => []
  | .cursor => []
  | .noCursor => []
  | .blink => []
  | .noBlink => []
  | .display => []
  | .noDisplay => []
  | .scrollLeft => []
  | .scrollRight => []
  | .autoscroll => []
  | .noAutoscroll => []
  | .leftToRight => []
  | .rightToLeft => []
  | .createChar _ _ => []
  | .showBuffer => []
  | .sendCmd _ _ => []
  | .sendData _ _ => []
  | .writeByte _ _ => []

/-- The new address and the rows operand of an INIT. -/
def initOperands : Instr → Option (Byte × Byte)
  | .init a _ r => some (a, r)
  | _ => none

/-- Everything an operation adds to the wire, from its operands and the registers alone. -/
def wireOf (s : State) (i : Instr) : List WireItem :=
  match initOperands i with
  | some (a, r) => initWire s.cfg a (geometry r s.cfg.maxRows)
  | none =>
    (rawsOf s i ++ logicalTransfers s.cfg s.bl s.lastMode (transfersOf s i)).map (.byte s.addr) ++
      (delaysOf s.cfg i).map .delay

/-- LASTMODE after an operation (R20, R93, R211): the mode of its last logical transfer, or as it was. -/
def trackerAfter (last : Option Mode) : Instr → Option Mode
  | .init _ _ _ => some .cmd
  | .writeChar _ _ => some .data
  | .write _ data => if data = [] then last else some .data
  | .setCursor _ _ _ => some .cmd
  | .clear => some .cmd
  | .home => some .cmd
  | .backlight => last
  | .noBacklight => last
  | .cursor => some .cmd
  | .noCursor => some .cmd
  | .blink => some .cmd
  | .noBlink => some .cmd
  | .display => some .cmd
  | .noDisplay => some .cmd
  | .scrollLeft => some .cmd
  | .scrollRight => some .cmd
  | .autoscroll => some .cmd
  | .noAutoscroll => some .cmd
  | .leftToRight => some .cmd
  | .rightToLeft => some .cmd
  | .createChar _ _ => some .cmd
  | .showBuffer => last
  | .sendCmd _ _ => some .cmd
  | .sendData _ _ => some .data
  | .writeByte _ _ => last

/-- The delay requests among events, in order. -/
def delaysIn (es : List Event) : List Nat :=
  es.flatMap fun e => match e with
    | .dly us => [us]
    | .bw _ _ => []

/-- The six operations that write DCTL, INIT apart (R17). -/
def displayToggles : List Instr := [.display, .noDisplay, .cursor, .noCursor, .blink, .noBlink]

/-- The four operations that write EMODE, INIT apart (R18). -/
def entryToggles : List Instr := [.autoscroll, .noAutoscroll, .leftToRight, .rightToLeft]

/-- The two one-shot shifts (R151, R152). -/
def scrolls : List Instr := [.scrollLeft, .scrollRight]

/-- The headers whose operation has a buffering operand (R72). -/
def bufferedOps : List Nat := [0x01, 0x02, 0x03, 0x16, 0x17, 0x18]

/-- Two states alike but for CAP and for where the stream is cut (R55). -/
def Alike (s t : State) : Prop :=
  s.wire = t.wire ∧ { s.cfg with cap := 0 } = { t.cfg with cap := 0 } ∧
  s.initState = t.initState ∧ s.addr = t.addr ∧ s.rows = t.rows ∧ s.cols = t.cols ∧ s.bl = t.bl ∧
  s.dctl = t.dctl ∧ s.emode = t.emode ∧ s.fset = t.fset ∧ s.lastMode = t.lastMode

/-- A Session is live, or nothing is pending: INIT from Unknown discards what stands in the buffer (R171), and at
power-on nothing does (log entry 2). -/
def NothingToLose (s : State) : Prop := s.initState = .cleared ∨ s.buf = []

end Sys2Proof.Claims

open Sys2Proof.Claims

/-! ### Encoding -/

/-- R72, R73: the decoder reads back every operation the encoder writes, with the bytes after it. -/
def Obligations.DecodeOfEncode : Prop :=
  ∀ (i : Instr) (rest : List Byte), WellFormed i = true → decode (encode i ++ rest) = .ok (i, rest)

/-- R72, R73, R75: the decoder accepts nothing but the encoder's words of a well-formed operation. -/
def Obligations.DecodedBytesAreEncoded : Prop :=
  ∀ (bytes rest : List Byte) (i : Instr), decode bytes = .ok (i, rest) → WellFormed i = true ∧ bytes = encode i ++ rest

/-- Words written out from R71, R72, R73 and R77, one for each family. -/
def Obligations.WrittenWordsDecode : Prop :=
  decode [0b00000000, 0x27, 0x14, 0x04] = .ok (.init 0x27 0x14 0x04, []) ∧
  decode [0b10000001, 0x41, 0x15] = .ok (.writeChar true 0x41, [0x15]) ∧
  decode [0b00000010, 0x02, 0x48, 0x69] = .ok (.write false [0x48, 0x69], []) ∧
  decode [0b10000011, 0x01, 0x03] = .ok (.setCursor true 0x01 0x03, []) ∧
  decode [0b00010011] = .ok (.rightToLeft, []) ∧
  decode [0b00000110] = .ok (.backlight, []) ∧
  decode [0b00010100, 9, 0, 0x0A, 0x1F, 0x1F, 0x0E, 4, 0, 1] =
    .ok (.createChar 9 ⟨0, 0x0A, 0x1F, 0x1F, 0x0E, 4, 0, 1⟩, []) ∧
  decode [0b10010110, 0x0C] = .ok (.sendCmd true 0x0C, [])

/-- R71, R75: header bits 6:5, then OP, then B decide whether a header selects an operation; a header that selects one
is rejected only for missing operand bytes. -/
def Obligations.ReservedHeadersRejected : Prop :=
  ∀ (h : Byte) (rest : List Byte),
    if h.extractLsb' 5 2 ≠ 0 then decode (h :: rest) = .error .reservedBits
    else if 0x19 ≤ (h.extractLsb' 0 5).toNat then decode (h :: rest) = .error .reservedOp
    else if h.getLsbD 7 = true ∧ (h.extractLsb' 0 5).toNat ∉ bufferedOps then
      decode (h :: rest) = .error .bufferingNotAllowed
    else decode (h :: rest) = .error .truncated ∨
      ∃ i tail, decode (h :: rest) = .ok (i, tail) ∧ (encode i).head? = some h

/-- R75: a stream that ends before the last operand byte selects no operation. -/
def Obligations.TruncatedStreamRejected : Prop :=
  ∀ (i : Instr) (front : List Byte), WellFormed i = true → front <+: encode i → front ≠ [] → front ≠ encode i →
    decode front = .error .truncated

/-! ### The step, admission and the invariant -/

/-- R8, R195: where the waiting bytes decode to an operation, a step is that operation run with its bytes consumed; of an
Uninitialised operation only the consumption and the run's mark remain (log entry 5). -/
def Obligations.StepRunsDecodedOperation : Prop :=
  ∀ (s : State) (i : Instr) (rest : List Byte), s.cfg.WF → decode s.port = .ok (i, rest) → WellFormed i = true →
    (∀ t, exec i { s with port := rest } = .next t → step s = .next t) ∧
    (∀ f, exec i { s with port := rest } = .fault f → step s = .fault f) ∧
    (exec i { s with port := rest } = .refused .uninitialised →
      step s = .next { s with port := rest, containsRefusal := true })

/-- R195, R196, R210: the configuration is checked first, then the encoding; with nothing on the port the encoder does
nothing (log entry 3). -/
def Obligations.StepChecksInOrder : Prop :=
  ∀ (s : State),
    (¬ s.cfg.WF → step s = .refused .illFormedConfig) ∧
    (s.cfg.WF → s.port = [] → step s = .next s) ∧
    (∀ why, s.cfg.WF → s.port ≠ [] → decode s.port = .error why → step s = .refused (.invalidEncoding why))

/-- An ill-formed CFG refuses every operation, the model's reading (log entry 6) of R195, which does not build such a
machine. R195: with a well-formed CFG every operation but INIT is refused before the first INIT has completed. -/
def Obligations.UnadmittedOperationsRefused : Prop :=
  ∀ (i : Instr) (s : State),
    (¬ s.cfg.WF → exec i s = .refused .illFormedConfig) ∧
    (s.cfg.WF → s.initState ≠ .cleared → ¬ IsInit i → exec i s = .refused .uninitialised)

/-- R195: an Uninitialised operation's bytes are consumed, Session and OUT stay as they are, the run is marked, and a mark
is never taken away by any step (log entry 5). -/
def Obligations.UninitialisedStepOnlyMarks : Prop :=
  (∀ (s : State) (i : Instr) (rest : List Byte), s.cfg.WF → s.initState ≠ .cleared → ¬ IsInit i →
    decode s.port = .ok (i, rest) → step s = .next { s with port := rest, containsRefusal := true }) ∧
  (∀ s t : State, step s = .next t → s.containsRefusal = true → t.containsRefusal = true)

/-- R28: at power-on INITSTATE is Unknown and OUT is empty; CFG0 is well formed (R7); and the invariant holds there with
the values log entry 2 names. -/
def Obligations.PowerOnMeetsInvariant : Prop :=
  State.reset.initState = .unknown ∧ State.reset.out = [] ∧ State.reset.cfg = Config.cfg0 ∧ State.reset.Inv

/-- R13, R15, R17 to R20, R22, R24, R25: every step keeps the invariant, from every state that meets it. -/
def Obligations.StepKeepsInvariant : Prop :=
  ∀ s t : State, s.Inv → step s = .next t → t.Inv

/-- R190: every operation, on an initialised Session, completes, and INIT completes always; the Session is initialised
afterwards. -/
def Obligations.EveryOperationCompletes : Prop :=
  ∀ (i : Instr) (s : State), s.Inv → (s.initState = .cleared ∨ IsInit i) →
    ∃ t, exec i s = .next t ∧ t.initState = .cleared

/-- R190, R192, R193: no step faults, from every state that meets the invariant. -/
def Obligations.StepNeverFaults : Prop :=
  ∀ (s : State) (f : Fault), s.Inv → step s ≠ .fault f

/-- R22, R98: FILL is at most CAP after every sequence of operations. -/
def Obligations.FillNeverExceedsCapacity : Prop :=
  ∀ (ops : List Instr) (s t : State), s.cfg.WF → s.fill ≤ s.cfg.cap → runOps ops s = .next t → t.fill ≤ t.cfg.cap

/-! ### INIT -/

/-- R172, R173, R211: the Session INIT leaves, from every state, and what is not the Session unchanged. -/
def Obligations.InitLeavesFreshSession : Prop :=
  ∀ (a c r : Byte) (s : State), s.cfg.WF →
    ∃ t, exec (.init a c r) s = .next t ∧ t = { initialised s a c r with out := t.out }

/-- R170, R171, R175 to R178, R182: the whole trace of INIT when CAP is at least 18. -/
def Obligations.InitTrace : Prop :=
  ∀ (a c r : Byte) (s : State), s.cfg.WF → 18 ≤ s.cfg.cap →
    exec (.init a c r) s = .next { initialised s a c r with
      out := s.out ++ (if s.initState = .cleared ∧ s.buf ≠ [] then [.bw s.addr s.buf] else []) ++
        initEvents s.cfg a (geometry r s.cfg.maxRows) }

/-- R171: bytes pending in a live Session leave first, to the old ADDR, in one block write; every later block write of
INIT goes to the new address. -/
def Obligations.SupersededBytesGoToOldAddress : Prop :=
  ∀ (a c r : Byte) (s : State), s.Ready → s.buf ≠ [] →
    ∃ t es, exec (.init a c r) s = .next t ∧ t.out = s.out ++ .bw s.addr s.buf :: es ∧
      ∀ d bytes, .bw d bytes ∈ es → d = a

/-! ### The primitives and the flush -/

/-- R91, R100: SHOW on an empty buffer transmits nothing and returns 0; else one block write of the pending bytes, FILL 0,
and their number returned. No other operation returns a value. -/
def Obligations.ShowFlushes : Prop :=
  (∀ s : State, s.Ready → encode .showBuffer = [0x15] ∧
    exec .showBuffer s = .next (if s.buf = [] then { s with results := s.results ++ [0] }
      else { s with out := s.out ++ [.bw s.addr s.buf], buf := [], results := s.results ++ [s.fill] })) ∧
  (∀ (i : Instr) (s t : State), i ≠ .showBuffer → exec i s = .next t → t.results = s.results)

/-- R101, R102: SENDCMD and SENDDATA are one logical transfer in their mode; SENDDATA is WRITECHAR in effect. -/
def Obligations.SendPrimitivesTransfer : Prop :=
  ∀ (b : Bool) (v : Byte) (s : State), s.Ready →
    exec (.sendCmd b v) s = .next (s.afterTransfer v .cmd b) ∧
    exec (.sendData b v) s = .next (s.afterTransfer v .data b) ∧
    exec (.sendData b v) s = exec (.writeChar b v) s ∧
    encode (.sendCmd b v) = [if b then 0x96 else 0x16, v] ∧ encode (.sendData b v) = [if b then 0x97 else 0x17, v]

/-- R92, R103: WRITEBYTE is one raw byte with the backlight bits or-ed in; LASTMODE and BL stay. -/
def Obligations.WriteByteAppendsRaw : Prop :=
  ∀ (b : Bool) (v : Byte) (s : State), s.Ready →
    exec (.writeByte b v) s = .next (s.afterRaw v b) ∧ encode (.writeByte b v) = [if b then 0x98 else 0x18, v]

/-- R94: of two transfers with SHOW, a raw byte or a backlight change between them, the second adds 4 bytes when the modes
are the same and 5 when they differ, whatever the buffering operands are. -/
def Obligations.ModeByteOnlyOnChange : Prop :=
  ∀ (m m' : Mode) (b b' : Bool) (v v' : Byte) (mid : Instr) (s : State), s.Ready →
    (mid = .showBuffer ∨ mid = .backlight ∨ mid = .noBacklight ∨ ∃ c w, mid = .writeByte c w) →
    ∃ t u x, exec (send m b v) s = .next t ∧ exec mid t = .next u ∧ exec (send m' b' v') u = .next x ∧
      x.full.length = u.full.length + (if m = m' then 4 else 5) ∧ x.lastMode = some m'

/-- R99: the bytes of one transfer stay together: all of them are pending at the end of the buffer, or all of them stand at
the end of one block write. -/
def Obligations.TransferNeverSplit : Prop :=
  ∀ (m : Mode) (b : Bool) (v : Byte) (s : State), s.Ready →
    ∃ t ahead, exec (send m b v) s = .next t ∧
      (if b then t.buf = ahead ++ logicalTransfer s.cfg s.bl s.lastMode v m
        else ∃ earlier, t.buf = [] ∧
          t.out = earlier ++ [.bw s.addr (ahead ++ logicalTransfer s.cfg s.bl s.lastMode v m)])

/-- R96: an implicit flush inside a buffered transfer is one block write of the pending bytes, at least CAP - 4 and at
most CAP of them; without one OUT is unchanged. -/
def Obligations.ImplicitFlushIsNearlyFull : Prop :=
  ∀ (m : Mode) (v : Byte) (s : State), s.Ready → s.fill ≤ s.cfg.cap →
    ∃ t, exec (send m true v) s = .next t ∧
      (t.out = s.out ∨ (t.out = s.out ++ [.bw s.addr s.buf] ∧ s.cfg.cap ≤ s.fill + 4 ∧ s.fill ≤ s.cfg.cap))

/-! ### Text, cursor, clear, home, glyphs -/

/-- R110, R111: WRITECHAR is one DATA transfer; WRITE is its bytes as buffered DATA transfers, then one flush unless B. -/
def Obligations.CharacterWrites : Prop :=
  ∀ (b : Bool) (c : Byte) (data : List Byte) (s : State), s.Ready →
    exec (.writeChar b c) s = .next (s.afterTransfer c .data b) ∧
    exec (.write b data) s = .next (if b then s.afterData data else (s.afterData data).afterShow)

/-- R95, R111: WRITE adds 4 bytes a character and one mode byte where the mode had not been DATA and there is a
character; unbuffered it leaves nothing pending. -/
def Obligations.WriteByteCount : Prop :=
  ∀ (b : Bool) (data : List Byte) (s : State), s.Ready →
    ∃ t, exec (.write b data) s = .next t ∧
      t.full.length = s.full.length + 4 * data.length + (if data ≠ [] ∧ s.lastMode ≠ some .data then 1 else 0) ∧
      (b = false → t.buf = [])

/-- R113, R114, R45: SETCURSOR clamps line and position to the configured geometry and sends the address, a 7-bit value
that never carries into bit 7. -/
def Obligations.SetCursorSendsAddress : Prop :=
  ∀ (b : Bool) (line position : Byte) (s : State), s.Ready → s.SessionLegal →
    exec (.setCursor b line position) s = .next (s.afterTransfer (cursorCommand s line position) .cmd b) ∧
    min line.toNat (s.rows - 1) < 4 ∧
    (s.cfg.rowBase[min line.toNat (s.rows - 1)]?.getD 0).toNat + min position.toNat (s.cols - 1) ≤ 0x7F

/-- The model's own stop (log entry 8), which R7 and R15 rule out: SETCURSOR faults exactly where the clamped line is not in
the row table or the target leaves 7 bits. -/
def Obligations.SetCursorFaultsOutsideTable : Prop :=
  ∀ (b : Bool) (line position : Byte) (s : State), s.Ready →
    (exec (.setCursor b line position) s = .fault .noDisplayAddress ↔
      (4 ≤ min line.toNat (s.rows - 1) ∨
        0x7F < (s.cfg.rowBase[min line.toNat (s.rows - 1)]?.getD 0).toNat + min position.toNat (s.cols - 1)))

/-- R192: an operation with out-of-range geometry, line, position or slot is the same as the one with the clamped values,
in every state. -/
def Obligations.ClampedOperandsIndistinguishable : Prop :=
  (∀ (a c r : Byte) (s : State), exec (.init a c r) s =
    exec (.init a (BitVec.ofNat 8 (geometry c s.cfg.maxCols)) (BitVec.ofNat 8 (geometry r s.cfg.maxRows))) s) ∧
  (∀ (b : Bool) (line position : Byte) (s : State), exec (.setCursor b line position) s =
    exec (.setCursor b (BitVec.ofNat 8 (min line.toNat (s.rows - 1)))
      (BitVec.ofNat 8 (min position.toNat (s.cols - 1)))) s) ∧
  (∀ (slot : Byte) (g : Glyph) (s : State), exec (.createChar slot g) s =
    exec (.createChar (BitVec.ofNat 8 (min slot.toNat s.cfg.maxSlot)) g) s)

/-- R115: CLEAR is one unbuffered CMD transfer, then the delay. -/
def Obligations.ClearSendsAndWaits : Prop :=
  ∀ s : State, s.Ready →
    exec .clear s = .next ((s.afterTransfer s.cfg.cClear .cmd false).afterDelay s.cfg.tClear)

/-- R116: HOME is one unbuffered CMD transfer, then the delay. That HOME has the structure of CLEAR is the spec's own
inference (91_not_in_source N25). -/
def Obligations.HomeSendsAndWaits : Prop :=
  ∀ s : State, s.Ready → encode .home = [0x05] ∧
    exec .home s = .next ((s.afterTransfer s.cfg.cHome .cmd false).afterDelay s.cfg.tHome)

/-- R130, R133: CREATECHAR is the select, the eight rows and the cursor home, nothing pending afterwards; 42 bytes from
CMD and 43 otherwise. -/
def Obligations.CreateCharLoadsGlyph : Prop :=
  ∀ (slot : Byte) (g : Glyph) (s : State), s.Ready →
    encode (.createChar slot g) = [0x14, slot, g.r0, g.r1, g.r2, g.r3, g.r4, g.r5, g.r6, g.r7] ∧
    ∃ t, exec (.createChar slot g) s = .next t ∧
      t = ((s.afterTransfer (glyphCommand s.cfg slot) .cmd true).afterData
        [g.r0, g.r1, g.r2, g.r3, g.r4, g.r5, g.r6, g.r7]).afterTransfer
          (s.cfg.cSetDdram ||| cursorTarget s.cfg 0 0) .cmd false ∧
      t.full.length = s.full.length + (if s.lastMode = some .cmd then 42 else 43) ∧ t.buf = []

/-! ### Toggles and backlight -/

/-- R141 to R146: each display toggle writes one bit of DCTL and re-emits the whole flag byte. -/
def Obligations.DisplayTogglesReemit : Prop :=
  ∀ s : State, s.Ready →
    let sent := fun v : Byte => ({ s with dctl := v } : State).afterTransfer (s.cfg.cDisplayCtl ||| v) .cmd false
    (exec .display s = .next (sent (s.dctl ||| 0x04)) ∧ encode .display = [0x0C]) ∧
    (exec .noDisplay s = .next (sent (s.dctl &&& ~~~0x04)) ∧ encode .noDisplay = [0x0D]) ∧
    (exec .cursor s = .next (sent (s.dctl ||| 0x02)) ∧ encode .cursor = [0x08]) ∧
    (exec .noCursor s = .next (sent (s.dctl &&& ~~~0x02)) ∧ encode .noCursor = [0x09]) ∧
    (exec .blink s = .next (sent (s.dctl ||| 0x01)) ∧ encode .blink = [0x0A]) ∧
    (exec .noBlink s = .next (sent (s.dctl &&& ~~~0x01)) ∧ encode .noBlink = [0x0B])

/-- R147 to R150: each entry-mode toggle writes one bit of EMODE and re-emits the whole flag byte. -/
def Obligations.EntryModeTogglesReemit : Prop :=
  ∀ s : State, s.Ready →
    let sent := fun v : Byte => ({ s with emode := v } : State).afterTransfer (s.cfg.cEntryMode ||| v) .cmd false
    (exec .autoscroll s = .next (sent (s.emode ||| 0x01)) ∧ encode .autoscroll = [0x10]) ∧
    (exec .noAutoscroll s = .next (sent (s.emode &&& ~~~0x01)) ∧ encode .noAutoscroll = [0x11]) ∧
    (exec .leftToRight s = .next (sent (s.emode ||| 0x02)) ∧ encode .leftToRight = [0x12]) ∧
    (exec .rightToLeft s = .next (sent (s.emode &&& ~~~0x02)) ∧ encode .rightToLeft = [0x13])

/-- R151, R152: the scrolls send a one-shot shift and write no flag. -/
def Obligations.ScrollsSendShift : Prop :=
  ∀ s : State, s.Ready →
    (exec .scrollLeft s = .next (s.afterTransfer (s.cfg.cShift ||| 0x08) .cmd false) ∧ encode .scrollLeft = [0x0E]) ∧
    (exec .scrollRight s = .next (s.afterTransfer (s.cfg.cShift ||| 0x08 ||| 0x04) .cmd false) ∧
      encode .scrollRight = [0x0F])

/-- R153, R154, R218: the backlight operations write BL, then send one raw byte, behind pending bytes that keep their old
backlight bit; LASTMODE stays. The raw value 0 is the spec's decision D22. At FILL = CAP the pending bytes leave in a block
write of their own (R92), the model's choice against R153 and R218's "in the same BW" (log entry 10). -/
def Obligations.BacklightSendsOneByte : Prop :=
  ∀ s : State, s.Ready →
    exec .backlight s = .next (({ s with bl := true } : State).afterBytes 1 [s.cfg.blMask] false) ∧
    exec .noBacklight s = .next (({ s with bl := false } : State).afterBytes 1 [0x00] false)

/-- R155 as far as R93 allows it (log entry 10): a toggle emits exactly one block write, behind what was pending, where the
pending bytes leave room, and two where they do not. -/
def Obligations.ToggleIsNeverElided : Prop :=
  ∀ (i : Instr) (s : State), s.Ready → i ∈ displayToggles ++ entryToggles ++ scrolls →
    ∃ t bytes, exec i s = .next t ∧ bytes.length = (if s.lastMode = some .cmd then 4 else 5) ∧ t.buf = [] ∧
      t.lastMode = some .cmd ∧
      t.out = if s.fill + 5 ≤ s.cfg.cap then s.out ++ [.bw s.addr (s.buf ++ bytes)]
        else s.out ++ [.bw s.addr s.buf, .bw s.addr bytes]

/-! ### Frames -/

/-- R13, R14, R15, R19: no operation but INIT writes INITSTATE, ADDR, ROWS, COLS or FSET. -/
def Obligations.OnlyInitWritesGeometry : Prop :=
  ∀ (i : Instr) (s t : State), exec i s = .next t → ¬ IsInit i →
    t.initState = s.initState ∧ t.addr = s.addr ∧ t.rows = s.rows ∧ t.cols = s.cols ∧ t.fset = s.fset

/-- R16, R17, R18, R156: DCTL is written by its six toggles alone, EMODE by its four, BL by the two backlight operations,
INIT apart. -/
def Obligations.FlagRegistersFrame : Prop :=
  ∀ (i : Instr) (s t : State), exec i s = .next t → ¬ IsInit i →
    (i ∉ displayToggles → t.dctl = s.dctl) ∧ (i ∉ entryToggles → t.emode = s.emode) ∧
    (i ≠ .backlight → i ≠ .noBacklight → t.bl = s.bl)

/-- R20, R211: LASTMODE after every operation. -/
def Obligations.TrackerAfterOperation : Prop :=
  ∀ (i : Instr) (s t : State), exec i s = .next t → t.lastMode = trackerAfter s.lastMode i

/-- R25, R6: CFG, the command port and the run's mark are no operation's to write; only SHOW returns a value, and it
returns one. -/
def Obligations.EnvironmentFrame : Prop :=
  ∀ (i : Instr) (s t : State), exec i s = .next t →
    t.cfg = s.cfg ∧ t.port = s.port ∧ t.containsRefusal = s.containsRefusal ∧
    t.results = s.results ++ (if i = .showBuffer then [s.fill] else [])

/-- R24, R54: a step only appends to OUT and to the results, only takes bytes from the front of the port, and leaves CFG. -/
def Obligations.StepOnlyAppends : Prop :=
  ∀ s t : State, step s = .next t →
    (∃ es, t.out = s.out ++ es) ∧ (∃ ns, t.results = s.results ++ ns) ∧ (∃ used, s.port = used ++ t.port) ∧
    t.cfg = s.cfg

/-- R41: an operation that flushes nothing stores at FILL upwards alone: every index below the old FILL, or not below the
new one, reads as before. -/
def Obligations.BufferIsAppendOnly : Prop :=
  ∀ (i : Instr) (s t : State), exec i s = .next t → t.out = s.out →
    s.fill ≤ t.fill ∧ ∀ a, (a < s.fill ∨ t.fill ≤ a) → t.bufByte a = s.bufByte a

/-- R43, R49: every block write an operation adds carries 1 to CAP bytes; it goes to ADDR, and INIT's go to the old ADDR or
the new one. -/
def Obligations.BlockWritesGoToAddr : Prop :=
  ∀ (i : Instr) (s t : State), exec i s = .next t → s.fill ≤ s.cfg.cap →
    ∀ d bytes, .bw d bytes ∈ t.out.drop s.out.length →
      1 ≤ bytes.length ∧ bytes.length ≤ s.cfg.cap ∧ (d = s.addr ∨ d = t.addr)

/-- R199: delays are requested by INIT (four), CLEAR and HOME alone, in order. -/
def Obligations.DelaysOnlyFromInitClearHome : Prop :=
  ∀ (i : Instr) (s t : State), exec i s = .next t → delaysIn t.out = delaysIn s.out ++ delaysOf s.cfg i

/-! ### The stream -/

/-- R44, R16: every byte an operation other than WRITEBYTE emits has the read/write bit 0 and carries BL as it stands after
the operation. -/
def Obligations.EmittedControlBits : Prop :=
  ∀ (i : Instr) (s t : State), exec i s = .next t → NothingToLose s → (∀ b v, i ≠ .writeByte b v) →
    ∃ bytes, t.full = s.full ++ bytes ∧
      ∀ x ∈ bytes, x &&& s.cfg.rwMask = 0 ∧ x &&& s.cfg.blMask = blBits s.cfg t.bl

/-- R61 to R65 under CFG0 (D2): the four fields of an emitted byte. -/
def Obligations.EmittedByteLayout : Prop :=
  ∀ (bl : Bool) (v : Byte) (m : Mode),
    let rs : BitVec 1 := if m = .data then 1 else 0
    let light : BitVec 1 := if bl then 1 else 0
    hiNibble Config.cfg0 bl v m = v.extractLsb' 4 4 ++ light ++ 0#1 ++ 0#1 ++ rs ∧
    loNibble Config.cfg0 bl v m = v.extractLsb' 0 4 ++ light ++ 0#1 ++ 0#1 ++ rs ∧
    strobed Config.cfg0 (hiNibble Config.cfg0 bl v m) = v.extractLsb' 4 4 ++ light ++ 1#1 ++ 0#1 ++ rs ∧
    modeByte Config.cfg0 bl m = 0#4 ++ light ++ 0#1 ++ 0#1 ++ rs

/-- R51(a), R66, R97: what every admitted operation adds to the wire is the encoding of the logical bytes its rule lists, its
raw bytes and its delays, and nothing that stood there is lost. -/
def Obligations.WireRefinesLogicalBytes : Prop :=
  ∀ (i : Instr) (s : State), s.Inv → (s.initState = .cleared ∨ (IsInit i ∧ s.buf = [])) →
    ∃ t, exec i s = .next t ∧ t.wire = s.wire ++ wireOf s i

/-- R55: the stream, its delays at their places and its addresses do not depend on CAP or on any buffering operand: two
runs of the same operations but for those end alike. -/
def Obligations.StreamIndependentOfCutting : Prop :=
  ∀ (ops ops' : List Instr) (s s' t t' : State),
    ops.map dropB = ops'.map dropB → s.cfg.WF → s'.cfg.WF → NothingToLose s → NothingToLose s' → Alike s s' →
    runOps ops s = .next t → runOps ops' s' = .next t' → Alike t t'

/-- R221: transfers issued one after another all complete, and their bytes stand directly behind each other: no delay stands
between two of them. -/
def Obligations.TransfersFollowWithoutWait : Prop :=
  ∀ (xs : List (Mode × Bool × Byte)) (s : State), s.Ready →
    ∃ t, runOps (xs.map fun x => send x.1 x.2.1 x.2.2) s = .next t ∧
      t.wire = s.wire ++
        (logicalTransfers s.cfg s.bl s.lastMode (xs.map fun x => (x.1, x.2.2))).map (.byte s.addr)
end

