-- ==== Sys2Proof/Laws/Decode.lean ====
section
/-! SUPPORT. Small facts about headers and operand lists, for the encoding statements. -/

namespace Sys2Proof

/-- A header with its reserved bits 0 is its B bit and its operation number (30_encoding R71). -/
theorem header_of_fields : ∀ h : Byte, headerReserved h = 0 → h = header (headerB h) (BitVec.ofNat 8 (headerOp h)) := by
  decide

/-- The header accessors are the bit fields of 30_encoding R71. -/
theorem header_fields : ∀ h : Byte,
    (h.extractLsb' 5 2 ≠ 0 ↔ headerReserved h ≠ 0) ∧ (h.extractLsb' 0 5).toNat = headerOp h ∧
      h.getLsbD 7 = headerB h := by
  decide

theorem headerOp_lt : ∀ h : Byte, headerOp h < 32 := by decide

/-- A length byte and that many data bytes are read back, with the bytes after them (30_encoding R73). -/
theorem operandsS_of_data (f : List Byte → Instr) (data rest : List Byte) (h : data.length ≤ 255) :
    operandsS f (BitVec.ofNat 8 data.length :: (data ++ rest)) = .ok (f data, rest) := by
  have hn : (BitVec.ofNat 8 data.length).toNat = data.length := by simp; omega
  unfold operandsS
  dsimp only
  rw [hn]
  simp

end Sys2Proof
end

