-- ==== Sys2Proof/Laws/State.lean ====
section
/-! SUPPORT. What each field of the state is after each plain update of Machine/Ops.lean, so that no proof unfolds a
record update. -/

namespace Sys2Proof.Machine

@[simp] theorem State.emit_cfg (s : State) (e : Event) : (s.emit e).cfg = s.cfg := rfl
@[simp] theorem State.emit_initState (s : State) (e : Event) : (s.emit e).initState = s.initState := rfl
@[simp] theorem State.emit_addr (s : State) (e : Event) : (s.emit e).addr = s.addr := rfl
@[simp] theorem State.emit_rows (s : State) (e : Event) : (s.emit e).rows = s.rows := rfl
@[simp] theorem State.emit_cols (s : State) (e : Event) : (s.emit e).cols = s.cols := rfl
@[simp] theorem State.emit_bl (s : State) (e : Event) : (s.emit e).bl = s.bl := rfl
@[simp] theorem State.emit_dctl (s : State) (e : Event) : (s.emit e).dctl = s.dctl := rfl
@[simp] theorem State.emit_emode (s : State) (e : Event) : (s.emit e).emode = s.emode := rfl
@[simp] theorem State.emit_fset (s : State) (e : Event) : (s.emit e).fset = s.fset := rfl
@[simp] theorem State.emit_lastMode (s : State) (e : Event) : (s.emit e).lastMode = s.lastMode := rfl
@[simp] theorem State.emit_buf (s : State) (e : Event) : (s.emit e).buf = s.buf := rfl
@[simp] theorem State.emit_out (s : State) (e : Event) : (s.emit e).out = s.out ++ [e] := rfl
@[simp] theorem State.emit_results (s : State) (e : Event) : (s.emit e).results = s.results := rfl
@[simp] theorem State.emit_port (s : State) (e : Event) : (s.emit e).port = s.port := rfl
@[simp] theorem State.emit_containsRefusal (s : State) (e : Event) : (s.emit e).containsRefusal = s.containsRefusal := rfl

@[simp] theorem State.delay_cfg (s : State) (us : Nat) : (s.delay us).cfg = s.cfg := rfl
@[simp] theorem State.delay_initState (s : State) (us : Nat) : (s.delay us).initState = s.initState := rfl
@[simp] theorem State.delay_addr (s : State) (us : Nat) : (s.delay us).addr = s.addr := rfl
@[simp] theorem State.delay_rows (s : State) (us : Nat) : (s.delay us).rows = s.rows := rfl
@[simp] theorem State.delay_cols (s : State) (us : Nat) : (s.delay us).cols = s.cols := rfl
@[simp] theorem State.delay_bl (s : State) (us : Nat) : (s.delay us).bl = s.bl := rfl
@[simp] theorem State.delay_dctl (s : State) (us : Nat) : (s.delay us).dctl = s.dctl := rfl
@[simp] theorem State.delay_emode (s : State) (us : Nat) : (s.delay us).emode = s.emode := rfl
@[simp] theorem State.delay_fset (s : State) (us : Nat) : (s.delay us).fset = s.fset := rfl
@[simp] theorem State.delay_lastMode (s : State) (us : Nat) : (s.delay us).lastMode = s.lastMode := rfl
@[simp] theorem State.delay_buf (s : State) (us : Nat) : (s.delay us).buf = s.buf := rfl
@[simp] theorem State.delay_out (s : State) (us : Nat) : (s.delay us).out = s.out ++ [.dly us] := rfl
@[simp] theorem State.delay_results (s : State) (us : Nat) : (s.delay us).results = s.results := rfl
@[simp] theorem State.delay_port (s : State) (us : Nat) : (s.delay us).port = s.port := rfl
@[simp] theorem State.delay_containsRefusal (s : State) (us : Nat) : (s.delay us).containsRefusal = s.containsRefusal := rfl

@[simp] theorem State.appendRaw_cfg (s : State) (b : Byte) : (s.appendRaw b).cfg = s.cfg := rfl
@[simp] theorem State.appendRaw_initState (s : State) (b : Byte) : (s.appendRaw b).initState = s.initState := rfl
@[simp] theorem State.appendRaw_addr (s : State) (b : Byte) : (s.appendRaw b).addr = s.addr := rfl
@[simp] theorem State.appendRaw_rows (s : State) (b : Byte) : (s.appendRaw b).rows = s.rows := rfl
@[simp] theorem State.appendRaw_cols (s : State) (b : Byte) : (s.appendRaw b).cols = s.cols := rfl
@[simp] theorem State.appendRaw_bl (s : State) (b : Byte) : (s.appendRaw b).bl = s.bl := rfl
@[simp] theorem State.appendRaw_dctl (s : State) (b : Byte) : (s.appendRaw b).dctl = s.dctl := rfl
@[simp] theorem State.appendRaw_emode (s : State) (b : Byte) : (s.appendRaw b).emode = s.emode := rfl
@[simp] theorem State.appendRaw_fset (s : State) (b : Byte) : (s.appendRaw b).fset = s.fset := rfl
@[simp] theorem State.appendRaw_lastMode (s : State) (b : Byte) : (s.appendRaw b).lastMode = s.lastMode := rfl
@[simp] theorem State.appendRaw_buf (s : State) (b : Byte) : (s.appendRaw b).buf = s.buf ++ [b] := rfl
@[simp] theorem State.appendRaw_out (s : State) (b : Byte) : (s.appendRaw b).out = s.out := rfl
@[simp] theorem State.appendRaw_results (s : State) (b : Byte) : (s.appendRaw b).results = s.results := rfl
@[simp] theorem State.appendRaw_port (s : State) (b : Byte) : (s.appendRaw b).port = s.port := rfl
@[simp] theorem State.appendRaw_containsRefusal (s : State) (b : Byte) : (s.appendRaw b).containsRefusal = s.containsRefusal := rfl

@[simp] theorem State.deliver_cfg (s : State) (n : Nat) : (s.deliver n).cfg = s.cfg := rfl
@[simp] theorem State.deliver_initState (s : State) (n : Nat) : (s.deliver n).initState = s.initState := rfl
@[simp] theorem State.deliver_addr (s : State) (n : Nat) : (s.deliver n).addr = s.addr := rfl
@[simp] theorem State.deliver_rows (s : State) (n : Nat) : (s.deliver n).rows = s.rows := rfl
@[simp] theorem State.deliver_cols (s : State) (n : Nat) : (s.deliver n).cols = s.cols := rfl
@[simp] theorem State.deliver_bl (s : State) (n : Nat) : (s.deliver n).bl = s.bl := rfl
@[simp] theorem State.deliver_dctl (s : State) (n : Nat) : (s.deliver n).dctl = s.dctl := rfl
@[simp] theorem State.deliver_emode (s : State) (n : Nat) : (s.deliver n).emode = s.emode := rfl
@[simp] theorem State.deliver_fset (s : State) (n : Nat) : (s.deliver n).fset = s.fset := rfl
@[simp] theorem State.deliver_lastMode (s : State) (n : Nat) : (s.deliver n).lastMode = s.lastMode := rfl
@[simp] theorem State.deliver_buf (s : State) (n : Nat) : (s.deliver n).buf = s.buf := rfl
@[simp] theorem State.deliver_out (s : State) (n : Nat) : (s.deliver n).out = s.out := rfl
@[simp] theorem State.deliver_results (s : State) (n : Nat) : (s.deliver n).results = s.results ++ [n] := rfl
@[simp] theorem State.deliver_port (s : State) (n : Nat) : (s.deliver n).port = s.port := rfl
@[simp] theorem State.deliver_containsRefusal (s : State) (n : Nat) : (s.deliver n).containsRefusal = s.containsRefusal := rfl

@[simp] theorem State.enter_cfg (s : State) (i : InitState) : (s.enter i).cfg = s.cfg := rfl
@[simp] theorem State.enter_initState (s : State) (i : InitState) : (s.enter i).initState = i := rfl
@[simp] theorem State.enter_addr (s : State) (i : InitState) : (s.enter i).addr = s.addr := rfl
@[simp] theorem State.enter_rows (s : State) (i : InitState) : (s.enter i).rows = s.rows := rfl
@[simp] theorem State.enter_cols (s : State) (i : InitState) : (s.enter i).cols = s.cols := rfl
@[simp] theorem State.enter_bl (s : State) (i : InitState) : (s.enter i).bl = s.bl := rfl
@[simp] theorem State.enter_dctl (s : State) (i : InitState) : (s.enter i).dctl = s.dctl := rfl
@[simp] theorem State.enter_emode (s : State) (i : InitState) : (s.enter i).emode = s.emode := rfl
@[simp] theorem State.enter_fset (s : State) (i : InitState) : (s.enter i).fset = s.fset := rfl
@[simp] theorem State.enter_lastMode (s : State) (i : InitState) : (s.enter i).lastMode = s.lastMode := rfl
@[simp] theorem State.enter_buf (s : State) (i : InitState) : (s.enter i).buf = s.buf := rfl
@[simp] theorem State.enter_out (s : State) (i : InitState) : (s.enter i).out = s.out := rfl
@[simp] theorem State.enter_results (s : State) (i : InitState) : (s.enter i).results = s.results := rfl
@[simp] theorem State.enter_port (s : State) (i : InitState) : (s.enter i).port = s.port := rfl
@[simp] theorem State.enter_containsRefusal (s : State) (i : InitState) : (s.enter i).containsRefusal = s.containsRefusal := rfl

@[simp] theorem State.withPort_cfg (s : State) (rest : List Byte) : (s.withPort rest).cfg = s.cfg := rfl
@[simp] theorem State.withPort_initState (s : State) (rest : List Byte) : (s.withPort rest).initState = s.initState := rfl
@[simp] theorem State.withPort_addr (s : State) (rest : List Byte) : (s.withPort rest).addr = s.addr := rfl
@[simp] theorem State.withPort_rows (s : State) (rest : List Byte) : (s.withPort rest).rows = s.rows := rfl
@[simp] theorem State.withPort_cols (s : State) (rest : List Byte) : (s.withPort rest).cols = s.cols := rfl
@[simp] theorem State.withPort_bl (s : State) (rest : List Byte) : (s.withPort rest).bl = s.bl := rfl
@[simp] theorem State.withPort_dctl (s : State) (rest : List Byte) : (s.withPort rest).dctl = s.dctl := rfl
@[simp] theorem State.withPort_emode (s : State) (rest : List Byte) : (s.withPort rest).emode = s.emode := rfl
@[simp] theorem State.withPort_fset (s : State) (rest : List Byte) : (s.withPort rest).fset = s.fset := rfl
@[simp] theorem State.withPort_lastMode (s : State) (rest : List Byte) : (s.withPort rest).lastMode = s.lastMode := rfl
@[simp] theorem State.withPort_buf (s : State) (rest : List Byte) : (s.withPort rest).buf = s.buf := rfl
@[simp] theorem State.withPort_out (s : State) (rest : List Byte) : (s.withPort rest).out = s.out := rfl
@[simp] theorem State.withPort_results (s : State) (rest : List Byte) : (s.withPort rest).results = s.results := rfl
@[simp] theorem State.withPort_port (s : State) (rest : List Byte) : (s.withPort rest).port = rest := rfl
@[simp] theorem State.withPort_containsRefusal (s : State) (rest : List Byte) : (s.withPort rest).containsRefusal = s.containsRefusal := rfl

@[simp] theorem State.issue_cfg (s : State) (bytes : List Byte) : (s.issue bytes).cfg = s.cfg := rfl
@[simp] theorem State.issue_initState (s : State) (bytes : List Byte) : (s.issue bytes).initState = s.initState := rfl
@[simp] theorem State.issue_addr (s : State) (bytes : List Byte) : (s.issue bytes).addr = s.addr := rfl
@[simp] theorem State.issue_rows (s : State) (bytes : List Byte) : (s.issue bytes).rows = s.rows := rfl
@[simp] theorem State.issue_cols (s : State) (bytes : List Byte) : (s.issue bytes).cols = s.cols := rfl
@[simp] theorem State.issue_bl (s : State) (bytes : List Byte) : (s.issue bytes).bl = s.bl := rfl
@[simp] theorem State.issue_dctl (s : State) (bytes : List Byte) : (s.issue bytes).dctl = s.dctl := rfl
@[simp] theorem State.issue_emode (s : State) (bytes : List Byte) : (s.issue bytes).emode = s.emode := rfl
@[simp] theorem State.issue_fset (s : State) (bytes : List Byte) : (s.issue bytes).fset = s.fset := rfl
@[simp] theorem State.issue_lastMode (s : State) (bytes : List Byte) : (s.issue bytes).lastMode = s.lastMode := rfl
@[simp] theorem State.issue_buf (s : State) (bytes : List Byte) : (s.issue bytes).buf = s.buf := rfl
@[simp] theorem State.issue_out (s : State) (bytes : List Byte) : (s.issue bytes).out = s.out := rfl
@[simp] theorem State.issue_results (s : State) (bytes : List Byte) : (s.issue bytes).results = s.results := rfl
@[simp] theorem State.issue_port (s : State) (bytes : List Byte) : (s.issue bytes).port = bytes ++ s.port := rfl
@[simp] theorem State.issue_containsRefusal (s : State) (bytes : List Byte) : (s.issue bytes).containsRefusal = s.containsRefusal := rfl

@[simp] theorem State.resetSession_cfg (s : State) (a c r : Byte) : (s.resetSession a c r).cfg = s.cfg := rfl
@[simp] theorem State.resetSession_initState (s : State) (a c r : Byte) : (s.resetSession a c r).initState = .unknown := rfl
@[simp] theorem State.resetSession_addr (s : State) (a c r : Byte) : (s.resetSession a c r).addr = a := rfl
@[simp] theorem State.resetSession_rows (s : State) (a c r : Byte) : (s.resetSession a c r).rows = clampGeometry r s.cfg.maxRows := rfl
@[simp] theorem State.resetSession_cols (s : State) (a c r : Byte) : (s.resetSession a c r).cols = clampGeometry c s.cfg.maxCols := rfl
@[simp] theorem State.resetSession_bl (s : State) (a c r : Byte) : (s.resetSession a c r).bl = s.cfg.blReset := rfl
@[simp] theorem State.resetSession_dctl (s : State) (a c r : Byte) : (s.resetSession a c r).dctl = s.cfg.dctlReset := rfl
@[simp] theorem State.resetSession_emode (s : State) (a c r : Byte) : (s.resetSession a c r).emode = s.cfg.emodeReset := rfl
@[simp] theorem State.resetSession_fset (s : State) (a c r : Byte) : (s.resetSession a c r).fset = functionSetFlags (clampGeometry r s.cfg.maxRows) := rfl
@[simp] theorem State.resetSession_lastMode (s : State) (a c r : Byte) : (s.resetSession a c r).lastMode = none := rfl
@[simp] theorem State.resetSession_buf (s : State) (a c r : Byte) : (s.resetSession a c r).buf = [] := rfl
@[simp] theorem State.resetSession_out (s : State) (a c r : Byte) : (s.resetSession a c r).out = s.out := rfl
@[simp] theorem State.resetSession_results (s : State) (a c r : Byte) : (s.resetSession a c r).results = s.results := rfl
@[simp] theorem State.resetSession_port (s : State) (a c r : Byte) : (s.resetSession a c r).port = s.port := rfl
@[simp] theorem State.resetSession_containsRefusal (s : State) (a c r : Byte) : (s.resetSession a c r).containsRefusal = s.containsRefusal := rfl

end Sys2Proof.Machine
end

