-- ==== Sys2Proof/Laws/Ops.lean ====
section
/-! SUPPORT. One lemma per shared operation that says everything it does, in the closed forms of Safety.lean; what each
closed form leaves unchanged, and what it adds to the stream. -/

namespace Sys2Proof.Machine

/-! ### Fields the closed forms leave, and the ones they write -/

@[simp] theorem State.afterBytes_cfg (s : State) (room : Nat) (bytes : List Byte) (buf : Bool) : (s.afterBytes room bytes buf).cfg = s.cfg := rfl
@[simp] theorem State.afterBytes_initState (s : State) (room : Nat) (bytes : List Byte) (buf : Bool) : (s.afterBytes room bytes buf).initState = s.initState := rfl
@[simp] theorem State.afterBytes_addr (s : State) (room : Nat) (bytes : List Byte) (buf : Bool) : (s.afterBytes room bytes buf).addr = s.addr := rfl
@[simp] theorem State.afterBytes_rows (s : State) (room : Nat) (bytes : List Byte) (buf : Bool) : (s.afterBytes room bytes buf).rows = s.rows := rfl
@[simp] theorem State.afterBytes_cols (s : State) (room : Nat) (bytes : List Byte) (buf : Bool) : (s.afterBytes room bytes buf).cols = s.cols := rfl
@[simp] theorem State.afterBytes_bl (s : State) (room : Nat) (bytes : List Byte) (buf : Bool) : (s.afterBytes room bytes buf).bl = s.bl := rfl
@[simp] theorem State.afterBytes_dctl (s : State) (room : Nat) (bytes : List Byte) (buf : Bool) : (s.afterBytes room bytes buf).dctl = s.dctl := rfl
@[simp] theorem State.afterBytes_emode (s : State) (room : Nat) (bytes : List Byte) (buf : Bool) : (s.afterBytes room bytes buf).emode = s.emode := rfl
@[simp] theorem State.afterBytes_fset (s : State) (room : Nat) (bytes : List Byte) (buf : Bool) : (s.afterBytes room bytes buf).fset = s.fset := rfl
@[simp] theorem State.afterBytes_lastMode (s : State) (room : Nat) (bytes : List Byte) (buf : Bool) : (s.afterBytes room bytes buf).lastMode = s.lastMode := rfl
@[simp] theorem State.afterBytes_results (s : State) (room : Nat) (bytes : List Byte) (buf : Bool) : (s.afterBytes room bytes buf).results = s.results := rfl
@[simp] theorem State.afterBytes_port (s : State) (room : Nat) (bytes : List Byte) (buf : Bool) : (s.afterBytes room bytes buf).port = s.port := rfl
@[simp] theorem State.afterBytes_containsRefusal (s : State) (room : Nat) (bytes : List Byte) (buf : Bool) : (s.afterBytes room bytes buf).containsRefusal = s.containsRefusal := rfl

@[simp] theorem State.afterTransfer_cfg (s : State) (v : Byte) (m : Mode) (buf : Bool) : (s.afterTransfer v m buf).cfg = s.cfg := rfl
@[simp] theorem State.afterTransfer_initState (s : State) (v : Byte) (m : Mode) (buf : Bool) : (s.afterTransfer v m buf).initState = s.initState := rfl
@[simp] theorem State.afterTransfer_addr (s : State) (v : Byte) (m : Mode) (buf : Bool) : (s.afterTransfer v m buf).addr = s.addr := rfl
@[simp] theorem State.afterTransfer_rows (s : State) (v : Byte) (m : Mode) (buf : Bool) : (s.afterTransfer v m buf).rows = s.rows := rfl
@[simp] theorem State.afterTransfer_cols (s : State) (v : Byte) (m : Mode) (buf : Bool) : (s.afterTransfer v m buf).cols = s.cols := rfl
@[simp] theorem State.afterTransfer_bl (s : State) (v : Byte) (m : Mode) (buf : Bool) : (s.afterTransfer v m buf).bl = s.bl := rfl
@[simp] theorem State.afterTransfer_dctl (s : State) (v : Byte) (m : Mode) (buf : Bool) : (s.afterTransfer v m buf).dctl = s.dctl := rfl
@[simp] theorem State.afterTransfer_emode (s : State) (v : Byte) (m : Mode) (buf : Bool) : (s.afterTransfer v m buf).emode = s.emode := rfl
@[simp] theorem State.afterTransfer_fset (s : State) (v : Byte) (m : Mode) (buf : Bool) : (s.afterTransfer v m buf).fset = s.fset := rfl
@[simp] theorem State.afterTransfer_lastMode (s : State) (v : Byte) (m : Mode) (buf : Bool) : (s.afterTransfer v m buf).lastMode = some m := rfl
@[simp] theorem State.afterTransfer_results (s : State) (v : Byte) (m : Mode) (buf : Bool) : (s.afterTransfer v m buf).results = s.results := rfl
@[simp] theorem State.afterTransfer_port (s : State) (v : Byte) (m : Mode) (buf : Bool) : (s.afterTransfer v m buf).port = s.port := rfl
@[simp] theorem State.afterTransfer_containsRefusal (s : State) (v : Byte) (m : Mode) (buf : Bool) : (s.afterTransfer v m buf).containsRefusal = s.containsRefusal := rfl

@[simp] theorem State.afterRaw_cfg (s : State) (v : Byte) (buf : Bool) : (s.afterRaw v buf).cfg = s.cfg := rfl
@[simp] theorem State.afterRaw_initState (s : State) (v : Byte) (buf : Bool) : (s.afterRaw v buf).initState = s.initState := rfl
@[simp] theorem State.afterRaw_addr (s : State) (v : Byte) (buf : Bool) : (s.afterRaw v buf).addr = s.addr := rfl
@[simp] theorem State.afterRaw_rows (s : State) (v : Byte) (buf : Bool) : (s.afterRaw v buf).rows = s.rows := rfl
@[simp] theorem State.afterRaw_cols (s : State) (v : Byte) (buf : Bool) : (s.afterRaw v buf).cols = s.cols := rfl
@[simp] theorem State.afterRaw_bl (s : State) (v : Byte) (buf : Bool) : (s.afterRaw v buf).bl = s.bl := rfl
@[simp] theorem State.afterRaw_dctl (s : State) (v : Byte) (buf : Bool) : (s.afterRaw v buf).dctl = s.dctl := rfl
@[simp] theorem State.afterRaw_emode (s : State) (v : Byte) (buf : Bool) : (s.afterRaw v buf).emode = s.emode := rfl
@[simp] theorem State.afterRaw_fset (s : State) (v : Byte) (buf : Bool) : (s.afterRaw v buf).fset = s.fset := rfl
@[simp] theorem State.afterRaw_lastMode (s : State) (v : Byte) (buf : Bool) : (s.afterRaw v buf).lastMode = s.lastMode := rfl
@[simp] theorem State.afterRaw_results (s : State) (v : Byte) (buf : Bool) : (s.afterRaw v buf).results = s.results := rfl
@[simp] theorem State.afterRaw_port (s : State) (v : Byte) (buf : Bool) : (s.afterRaw v buf).port = s.port := rfl
@[simp] theorem State.afterRaw_containsRefusal (s : State) (v : Byte) (buf : Bool) : (s.afterRaw v buf).containsRefusal = s.containsRefusal := rfl

@[simp] theorem State.afterShow_cfg (s : State) : (s.afterShow).cfg = s.cfg := rfl
@[simp] theorem State.afterShow_initState (s : State) : (s.afterShow).initState = s.initState := rfl
@[simp] theorem State.afterShow_addr (s : State) : (s.afterShow).addr = s.addr := rfl
@[simp] theorem State.afterShow_rows (s : State) : (s.afterShow).rows = s.rows := rfl
@[simp] theorem State.afterShow_cols (s : State) : (s.afterShow).cols = s.cols := rfl
@[simp] theorem State.afterShow_bl (s : State) : (s.afterShow).bl = s.bl := rfl
@[simp] theorem State.afterShow_dctl (s : State) : (s.afterShow).dctl = s.dctl := rfl
@[simp] theorem State.afterShow_emode (s : State) : (s.afterShow).emode = s.emode := rfl
@[simp] theorem State.afterShow_fset (s : State) : (s.afterShow).fset = s.fset := rfl
@[simp] theorem State.afterShow_lastMode (s : State) : (s.afterShow).lastMode = s.lastMode := rfl
@[simp] theorem State.afterShow_buf (s : State) : (s.afterShow).buf = [] := rfl
@[simp] theorem State.afterShow_results (s : State) : (s.afterShow).results = s.results := rfl
@[simp] theorem State.afterShow_port (s : State) : (s.afterShow).port = s.port := rfl
@[simp] theorem State.afterShow_containsRefusal (s : State) : (s.afterShow).containsRefusal = s.containsRefusal := rfl

@[simp] theorem State.afterDelay_cfg (s : State) (us : Nat) : (s.afterDelay us).cfg = s.cfg := rfl
@[simp] theorem State.afterDelay_initState (s : State) (us : Nat) : (s.afterDelay us).initState = s.initState := rfl
@[simp] theorem State.afterDelay_addr (s : State) (us : Nat) : (s.afterDelay us).addr = s.addr := rfl
@[simp] theorem State.afterDelay_rows (s : State) (us : Nat) : (s.afterDelay us).rows = s.rows := rfl
@[simp] theorem State.afterDelay_cols (s : State) (us : Nat) : (s.afterDelay us).cols = s.cols := rfl
@[simp] theorem State.afterDelay_bl (s : State) (us : Nat) : (s.afterDelay us).bl = s.bl := rfl
@[simp] theorem State.afterDelay_dctl (s : State) (us : Nat) : (s.afterDelay us).dctl = s.dctl := rfl
@[simp] theorem State.afterDelay_emode (s : State) (us : Nat) : (s.afterDelay us).emode = s.emode := rfl
@[simp] theorem State.afterDelay_fset (s : State) (us : Nat) : (s.afterDelay us).fset = s.fset := rfl
@[simp] theorem State.afterDelay_lastMode (s : State) (us : Nat) : (s.afterDelay us).lastMode = s.lastMode := rfl
@[simp] theorem State.afterDelay_buf (s : State) (us : Nat) : (s.afterDelay us).buf = s.buf := rfl
@[simp] theorem State.afterDelay_out (s : State) (us : Nat) : (s.afterDelay us).out = s.out ++ [.dly us] := rfl
@[simp] theorem State.afterDelay_results (s : State) (us : Nat) : (s.afterDelay us).results = s.results := rfl
@[simp] theorem State.afterDelay_port (s : State) (us : Nat) : (s.afterDelay us).port = s.port := rfl
@[simp] theorem State.afterDelay_containsRefusal (s : State) (us : Nat) : (s.afterDelay us).containsRefusal = s.containsRefusal := rfl

@[simp] theorem State.afterData_nil (s : State) : s.afterData [] = s := rfl

@[simp] theorem State.afterData_cons (s : State) (d : Byte) (rest : List Byte) :
    s.afterData (d :: rest) = (s.afterTransfer d .data true).afterData rest := rfl

@[simp] theorem State.afterData_cfg (s : State) (data : List Byte) : (s.afterData data).cfg = s.cfg := by
  induction data generalizing s with
  | nil => rfl
  | cons d rest ih => simpa using ih (s.afterTransfer d .data true)

@[simp] theorem State.afterData_initState (s : State) (data : List Byte) : (s.afterData data).initState = s.initState := by
  induction data generalizing s with
  | nil => rfl
  | cons d rest ih => simpa using ih (s.afterTransfer d .data true)

@[simp] theorem State.afterData_addr (s : State) (data : List Byte) : (s.afterData data).addr = s.addr := by
  induction data generalizing s with
  | nil => rfl
  | cons d rest ih => simpa using ih (s.afterTransfer d .data true)

@[simp] theorem State.afterData_rows (s : State) (data : List Byte) : (s.afterData data).rows = s.rows := by
  induction data generalizing s with
  | nil => rfl
  | cons d rest ih => simpa using ih (s.afterTransfer d .data true)

@[simp] theorem State.afterData_cols (s : State) (data : List Byte) : (s.afterData data).cols = s.cols := by
  induction data generalizing s with
  | nil => rfl
  | cons d rest ih => simpa using ih (s.afterTransfer d .data true)

@[simp] theorem State.afterData_bl (s : State) (data : List Byte) : (s.afterData data).bl = s.bl := by
  induction data generalizing s with
  | nil => rfl
  | cons d rest ih => simpa using ih (s.afterTransfer d .data true)

@[simp] theorem State.afterData_dctl (s : State) (data : List Byte) : (s.afterData data).dctl = s.dctl := by
  induction data generalizing s with
  | nil => rfl
  | cons d rest ih => simpa using ih (s.afterTransfer d .data true)

@[simp] theorem State.afterData_emode (s : State) (data : List Byte) : (s.afterData data).emode = s.emode := by
  induction data generalizing s with
  | nil => rfl
  | cons d rest ih => simpa using ih (s.afterTransfer d .data true)

@[simp] theorem State.afterData_fset (s : State) (data : List Byte) : (s.afterData data).fset = s.fset := by
  induction data generalizing s with
  | nil => rfl
  | cons d rest ih => simpa using ih (s.afterTransfer d .data true)

@[simp] theorem State.afterData_results (s : State) (data : List Byte) : (s.afterData data).results = s.results := by
  induction data generalizing s with
  | nil => rfl
  | cons d rest ih => simpa using ih (s.afterTransfer d .data true)

@[simp] theorem State.afterData_port (s : State) (data : List Byte) : (s.afterData data).port = s.port := by
  induction data generalizing s with
  | nil => rfl
  | cons d rest ih => simpa using ih (s.afterTransfer d .data true)

@[simp] theorem State.afterData_containsRefusal (s : State) (data : List Byte) : (s.afterData data).containsRefusal = s.containsRefusal := by
  induction data generalizing s with
  | nil => rfl
  | cons d rest ih => simpa using ih (s.afterTransfer d .data true)

theorem State.afterData_lastMode (s : State) (data : List Byte) :
    (s.afterData data).lastMode = if data = [] then s.lastMode else some .data := by
  induction data generalizing s with
  | nil => simp
  | cons d rest ih => simp [ih]

/-- An unbuffered unit leaves nothing pending. -/
@[simp] theorem State.afterBytes_false_buf (s : State) (room : Nat) (bytes : List Byte) :
    (s.afterBytes room bytes false).buf = [] := rfl

@[simp] theorem State.afterTransfer_false_buf (s : State) (v : Byte) (m : Mode) :
    (s.afterTransfer v m false).buf = [] := rfl

@[simp] theorem State.afterRaw_false_buf (s : State) (v : Byte) : (s.afterRaw v false).buf = [] := rfl

/-! ### The procedures in closed form -/

/-- `Show` hands over everything pending in one block write (40_encoder_primitives R91). -/
theorem State.flush_eq_afterShow (s : State) : s.flush = s.afterShow := by
  cases s with
  | mk _ _ _ _ _ _ _ _ _ _ buf => cases buf <;> simp [State.flush, State.afterShow, State.emit]

/-- The room check: nothing where `n` bytes fit, a flush where they do not. -/
theorem State.ensureRoom_eq (s : State) (n : Nat) :
    s.ensureRoom n = if s.fill + n ≤ s.cfg.cap then s else s.afterShow := by
  unfold State.ensureRoom
  rw [State.flush_eq_afterShow]
  by_cases h : s.fill + n ≤ s.cfg.cap
  · rw [if_pos h, if_neg (by omega)]
  · rw [if_neg h, if_pos (by omega)]

/-- A room check, an append of one unit and the flush unless buffered, as one closed form. -/
theorem State.afterBytes_eq (s : State) (room : Nat) (bytes : List Byte) (buf : Bool)
    (hroom : room ≤ s.cfg.cap) (hbytes : bytes ≠ []) :
    ({ s.ensureRoom room with buf := (s.ensureRoom room).buf ++ bytes } : State).flushUnless buf =
      s.afterBytes room bytes buf := by
  rw [State.ensureRoom_eq]
  by_cases h : s.fill + room ≤ s.cfg.cap
  · cases buf <;>
      simp [h, State.flushUnless, State.flush_eq_afterShow, State.afterShow, State.afterBytes, hbytes]
  · have hb : s.buf ≠ [] := by
      intro h0
      simp [State.fill, h0] at h
      omega
    cases buf <;>
      simp [h, State.flushUnless, State.flush_eq_afterShow, State.afterShow, State.afterBytes, hb, hbytes]

/-- `WriteByte` in closed form (40_encoder_primitives R92). -/
theorem State.writeRaw_eq_afterRaw (s : State) (v : Byte) (buf : Bool) (hcap : 1 ≤ s.cfg.cap) :
    s.writeRaw v buf = s.afterRaw v buf := by
  have hcfg : (s.ensureRoom 1).cfg = s.cfg := by rw [State.ensureRoom_eq]; split <;> rfl
  have hbl : (s.ensureRoom 1).bl = s.bl := by rw [State.ensureRoom_eq]; split <;> rfl
  rw [State.afterRaw, ← State.afterBytes_eq s 1 _ buf hcap (by simp)]
  simp only [State.writeRaw, State.appendRaw, rawByte, hcfg, hbl]

/-- The nibbles and the mode byte of one transfer, appended in the order of 30_encoding R66. -/
theorem State.appendTransfer_eq (s : State) (v : Byte) (m : Mode) :
    (s.selectMode m).appendNibbles v m =
      { s with buf := s.buf ++ logicalTransfer s.cfg s.bl s.lastMode v m, lastMode := some m } := by
  by_cases h : s.lastMode = some m
  · cases s
    simp only at h
    subst h
    simp [State.selectMode, State.appendNibbles, State.appendRaw, logicalTransfer, strobed]
  · simp [State.selectMode, State.appendNibbles, State.appendRaw, logicalTransfer, strobed, h]

theorem logicalTransfer_ne_nil (c : Config) (bl : Bool) (last : Option Mode) (v : Byte) (m : Mode) :
    logicalTransfer c bl last v m ≠ [] := by simp [logicalTransfer]

/-- A transfer appends 4 bytes with the mode unchanged and 5 on a change (40_encoder_primitives R94). -/
theorem logicalTransfer_length (c : Config) (bl : Bool) (last : Option Mode) (v : Byte) (m : Mode) :
    (logicalTransfer c bl last v m).length = if last = some m then 4 else 5 := by
  unfold logicalTransfer
  split <;> simp

/-- Changing LASTMODE alone commutes with the flush. -/
theorem State.flushUnless_lastMode (s : State) (l : Option Mode) (buf : Bool) :
    ({ s with lastMode := l } : State).flushUnless buf = { s.flushUnless buf with lastMode := l } := by
  cases buf
  · simp [State.flushUnless, State.flush_eq_afterShow, State.afterShow]
  · rfl

/-- `SendByte` in closed form (40_encoder_primitives R93). -/
theorem State.sendByte_eq_afterTransfer (s : State) (v : Byte) (m : Mode) (buf : Bool) (hcap : 5 ≤ s.cfg.cap) :
    s.sendByte v m buf = s.afterTransfer v m buf := by
  have hcfg : (s.ensureRoom 5).cfg = s.cfg := by rw [State.ensureRoom_eq]; split <;> rfl
  have hbl : (s.ensureRoom 5).bl = s.bl := by rw [State.ensureRoom_eq]; split <;> rfl
  have hlast : (s.ensureRoom 5).lastMode = s.lastMode := by rw [State.ensureRoom_eq]; split <;> rfl
  rw [State.sendByte, State.appendTransfer_eq, State.afterTransfer,
    ← State.afterBytes_eq s 5 _ buf hcap (logicalTransfer_ne_nil _ _ _ _ _), ← State.flushUnless_lastMode,
    hcfg, hbl, hlast]

/-- Buffered DATA transfers in closed form (41_text_cursor R111). -/
theorem State.sendAll_eq_afterData (s : State) (data : List Byte) (hcap : 5 ≤ s.cfg.cap) :
    s.sendAll data = s.afterData data := by
  induction data generalizing s with
  | nil => rfl
  | cons d rest ih =>
    have := ih (s.sendByte d .data true) (by rw [State.sendByte_eq_afterTransfer s _ _ _ hcap]; exact hcap)
    rw [State.sendByte_eq_afterTransfer s _ _ _ hcap] at this
    simpa [State.sendAll, State.afterData, State.sendByte_eq_afterTransfer s d .data true hcap] using this

/-! ### Admission -/

/-- An initialised machine with a well-formed CFG admits every operation. -/
theorem State.admitted_of_ready {s : State} (h : s.Ready) (run : State → Answer) : s.admitted run = run s := by
  simp only [State.admitted, State.built]
  rw [if_pos h.1, if_pos h.2]

/-- What admission let through: the machine was ready, and the operation ran. -/
theorem State.admitted_next {s t : State} {run : State → Answer} (h : s.admitted run = .next t) :
    s.Ready ∧ run s = .next t := by
  unfold State.admitted State.built at h
  split at h
  · rename_i hwf
    dsimp only at h
    split at h
    · rename_i hc
      exact ⟨⟨hwf, hc⟩, h⟩
    · cases h
  · cases h

theorem State.built_of_wf {s : State} (h : s.cfg.WF) (run : State → Answer) : s.built run = run s := if_pos h

/-- What a built machine let through. -/
theorem State.built_next {s t : State} {run : State → Answer} (h : s.built run = .next t) :
    s.cfg.WF ∧ run s = .next t := by
  unfold State.built at h
  split at h
  · rename_i hwf
    exact ⟨hwf, h⟩
  · cases h

/-! ### The buffer as memory -/

/-- The buffer's cells are in canonical form in every state, so every operation keeps the form. -/
theorem State.memory_wf (s : State) : Memory.wf s.memory := by
  unfold State.memory Memory.wf
  rw [List.pairwise_map, List.pairwise_iff_getElem]
  intro i j hi hj hij
  simpa [List.getElem_zipIdx] using hij

/-- The cell at `i` is what `BUF[i]` reads as. -/
theorem State.memory_mem (s : State) (i : Nat) (b : Byte) : (i, b) ∈ s.memory ↔ s.bufByte i = some b := by
  simp [State.memory, State.bufByte, List.mem_zipIdx_iff_getElem?]

/-! ### What the closed forms add to the stream -/

theorem State.full_afterBytes (s : State) (room : Nat) (bytes : List Byte) (buf : Bool) :
    (s.afterBytes room bytes buf).full = s.full ++ bytes := by
  by_cases h : s.fill + room ≤ s.cfg.cap <;> cases buf <;>
    simp [State.full, State.afterBytes, h, Event.bytes, List.flatMap_append]

theorem State.wire_afterBytes (s : State) (room : Nat) (bytes : List Byte) (buf : Bool) :
    (s.afterBytes room bytes buf).wire = s.wire ++ bytes.map (.byte s.addr) := by
  by_cases h : s.fill + room ≤ s.cfg.cap <;> cases buf <;>
    simp [State.wire, State.afterBytes, h, Event.wire, List.flatMap_append]

theorem State.full_afterTransfer (s : State) (v : Byte) (m : Mode) (buf : Bool) :
    (s.afterTransfer v m buf).full = s.full ++ logicalTransfer s.cfg s.bl s.lastMode v m :=
  s.full_afterBytes 5 _ buf

theorem State.wire_afterTransfer (s : State) (v : Byte) (m : Mode) (buf : Bool) :
    (s.afterTransfer v m buf).wire = s.wire ++ (logicalTransfer s.cfg s.bl s.lastMode v m).map (.byte s.addr) :=
  s.wire_afterBytes 5 _ buf

theorem State.wire_afterRaw (s : State) (v : Byte) (buf : Bool) :
    (s.afterRaw v buf).wire = s.wire ++ [.byte s.addr (v ||| blBits s.cfg s.bl)] :=
  s.wire_afterBytes 1 _ buf

theorem State.wire_afterShow (s : State) : s.afterShow.wire = s.wire := by
  by_cases h : s.buf = [] <;> simp [State.wire, State.afterShow, h, Event.wire, List.flatMap_append]

theorem State.full_afterShow (s : State) : s.afterShow.full = s.full := by
  by_cases h : s.buf = [] <;> simp [State.full, State.afterShow, h, Event.bytes, List.flatMap_append]

/-- A delay goes behind everything where nothing is pending. -/
theorem State.wire_afterDelay (s : State) (us : Nat) (h : s.buf = []) :
    (s.afterDelay us).wire = s.wire ++ [.delay us] := by
  simp [State.wire, State.afterDelay, h, Event.wire, List.flatMap_append]

theorem State.wire_afterData (s : State) (data : List Byte) :
    (s.afterData data).wire =
      s.wire ++ (logicalTransfers s.cfg s.bl s.lastMode (data.map fun d => (.data, d))).map (.byte s.addr) := by
  induction data generalizing s with
  | nil => simp [logicalTransfers]
  | cons d rest ih => simp [ih, State.wire_afterTransfer, logicalTransfers]

/-- `full` is the bytes of the wire. -/
theorem State.full_eq_wire (s : State) :
    s.full = s.wire.flatMap fun w => match w with
      | .byte _ b => [b]
      | .delay _ => [] := by
  have hm : ∀ (a : Byte) (l : List Byte), (l.map (WireItem.byte a)).flatMap (fun w => match w with
      | .byte _ b => [b]
      | .delay _ => []) = l := by
    intro a l
    induction l with
    | nil => rfl
    | cons x l ih => simpa using ih
  unfold State.full State.wire
  rw [List.flatMap_append, hm]
  congr 1
  induction s.out with
  | nil => rfl
  | cons e rest ih =>
    cases e with
    | bw a bytes => simp [Event.bytes, Event.wire, List.flatMap_append, hm, ih]
    | dly us => simp [Event.bytes, Event.wire, ih]

/-! ### The buffer bound and legal block writes -/

/-- A unit no longer than its room keeps FILL at most CAP (40_encoder_primitives R98). -/
theorem State.afterBytes_fill_le (s : State) (room : Nat) (bytes : List Byte) (buf : Bool)
    (hroom : room ≤ s.cfg.cap) (hlen : bytes.length ≤ room) : (s.afterBytes room bytes buf).fill ≤ s.cfg.cap := by
  by_cases h : s.fill + room ≤ s.cfg.cap <;> cases buf <;>
    simp only [State.fill] at h <;> simp [State.fill, State.afterBytes, h] <;> omega

/-- The block writes a unit adds: to ADDR, 1 to CAP bytes each. -/
theorem State.afterBytes_out (s : State) (room : Nat) (bytes : List Byte) (buf : Bool)
    (hfill : s.fill ≤ s.cfg.cap) (hroom : room ≤ s.cfg.cap) (hlen : bytes.length ≤ room) (hne : bytes ≠ []) :
    ∃ es, (s.afterBytes room bytes buf).out = s.out ++ es ∧
      ∀ e ∈ es, ∃ bs, e = .bw s.addr bs ∧ 1 ≤ bs.length ∧ bs.length ≤ s.cfg.cap := by
  have hb : 1 ≤ bytes.length := List.length_pos_iff.mpr hne
  unfold State.fill at hfill
  by_cases h : s.fill + room ≤ s.cfg.cap
  · cases buf
    · refine ⟨[.bw s.addr (s.buf ++ bytes)], by simp [State.afterBytes, h], ?_⟩
      unfold State.fill at h
      intro e he
      exact ⟨_, List.mem_singleton.mp he, by simp; omega, by simp; omega⟩
    · exact ⟨[], by simp [State.afterBytes, h], by simp⟩
  · have hn : ¬ s.buf.length + room ≤ s.cfg.cap := h
    cases buf
    · refine ⟨[.bw s.addr s.buf, .bw s.addr bytes], by simp [State.afterBytes, h], ?_⟩
      intro e he
      rcases List.mem_cons.mp he with rfl | he
      · exact ⟨_, rfl, by omega, hfill⟩
      · exact ⟨_, List.mem_singleton.mp he, hb, by omega⟩
    · refine ⟨[.bw s.addr s.buf], by simp [State.afterBytes, h], ?_⟩
      intro e he
      exact ⟨_, List.mem_singleton.mp he, by omega, hfill⟩

end Sys2Proof.Machine
end

