-- ==== Sys2Proof/Laws/Init.lean ====
section
/-! SUPPORT. INIT's parts in closed form (44_init R171 to R178). From the register reset on, each part starts with an
empty buffer until the configuration bytes. -/

namespace Sys2Proof.Machine

/-- The supersession flush hands over a live Session's pending bytes (44_init R171). -/
theorem State.supersede_eq (s : State) : s.supersede = if s.initState = .cleared then s.afterShow else s := by
  unfold State.supersede
  rw [State.flush_eq_afterShow]

@[simp] theorem State.supersede_cfg (s : State) : s.supersede.cfg = s.cfg := by
  rw [State.supersede_eq]; split <;> rfl

/-- `RawNibble` on an empty buffer is one two-byte block write (44_init R174). -/
theorem State.rawNibble_eq (s : State) (k : BitVec 4) (hcap : 2 ≤ s.cfg.cap) (hbuf : s.buf = []) :
    s.rawNibble k = { s with out := s.out ++ [.bw s.addr
      [(k.setWidth 8 <<< 4) ||| s.cfg.enMask ||| blBits s.cfg s.bl, (k.setWidth 8 <<< 4) ||| blBits s.cfg s.bl]] } := by
  unfold State.rawNibble
  have h1 : 1 ≤ s.cfg.cap := by omega
  rw [State.writeRaw_eq_afterRaw _ _ _ h1, State.writeRaw_eq_afterRaw _ _ _ (by simpa using h1)]
  simp [State.afterRaw, State.afterBytes, State.fill, hbuf, h1, hcap, strobed]

/-- The events of the raw nibbles 3, 3, 3, 2 and their delays (44_init R175, R176). -/
def State.syncEvents (s : State) : List Event :=
  let three := Event.bw s.addr [0x30 ||| s.cfg.enMask ||| blBits s.cfg s.bl, 0x30 ||| blBits s.cfg s.bl]
  let two := Event.bw s.addr [0x20 ||| s.cfg.enMask ||| blBits s.cfg s.bl, 0x20 ||| blBits s.cfg s.bl]
  [three, .dly s.cfg.tSync1, three, .dly s.cfg.tSync2, three, .dly s.cfg.tSync3, two]

/-- Synchronisation and 4-bit selection on an empty buffer (44_init R175, R176). -/
theorem State.selectFourBit_synchronise (s : State) (hcap : 2 ≤ s.cfg.cap) (hbuf : s.buf = []) :
    s.synchronise.selectFourBit = { s with initState := .fourBitSelected, out := s.out ++ s.syncEvents } := by
  unfold State.synchronise State.selectFourBit
  simp [State.rawNibble_eq, hcap, hbuf, State.enter, State.delay, State.emit, State.syncEvents]

/-- The three configuration transfers (44_init R177). -/
theorem State.configure_eq (s : State) (hcap : 5 ≤ s.cfg.cap) :
    s.configure = (((s.afterTransfer (s.cfg.cEntryMode ||| s.emode) .cmd true).afterTransfer
      (s.cfg.cFunctionSet ||| s.fset) .cmd true).afterTransfer
      (s.cfg.cDisplayCtl ||| s.dctl) .cmd true).enter .configured := by
  have h1 : s.sendByte (entryModeCommand s) .cmd true = s.afterTransfer (s.cfg.cEntryMode ||| s.emode) .cmd true :=
    State.sendByte_eq_afterTransfer _ _ _ _ hcap
  unfold State.configure
  dsimp only
  rw [h1, State.sendByte_eq_afterTransfer _ (functionSetCommand _) _ _ (by simpa using hcap),
    State.sendByte_eq_afterTransfer _ (displayCommand _) _ _ (by simpa using hcap)]
  rfl

theorem State.delay_eq_afterDelay (s : State) (us : Nat) : s.delay us = s.afterDelay us := rfl

/-- The clear command, its flush and its delay (44_init R178, 41_text_cursor R115). -/
theorem State.clearDisplay_eq (s : State) (hcap : 5 ≤ s.cfg.cap) :
    s.clearDisplay = (s.afterTransfer s.cfg.cClear .cmd false).afterDelay s.cfg.tClear := by
  unfold State.clearDisplay
  rw [State.sendByte_eq_afterTransfer _ _ _ _ hcap, State.delay_eq_afterDelay]

/-- The home command, its flush and its delay (41_text_cursor R116). -/
theorem State.homeDisplay_eq (s : State) (hcap : 5 ≤ s.cfg.cap) :
    s.homeDisplay = (s.afterTransfer s.cfg.cHome .cmd false).afterDelay s.cfg.tHome := by
  unfold State.homeDisplay
  rw [State.sendByte_eq_afterTransfer _ _ _ _ hcap, State.delay_eq_afterDelay]

/-- INITSTATE is not read by a transfer, so writing it commutes with one. -/
theorem State.enter_afterTransfer (s : State) (i : InitState) (v : Byte) (m : Mode) (buf : Bool) :
    (s.enter i).afterTransfer v m buf = (s.afterTransfer v m buf).enter i := rfl

theorem State.enter_afterDelay (s : State) (i : InitState) (us : Nat) :
    (s.enter i).afterDelay us = (s.afterDelay us).enter i := rfl

/-- The power-on sequence on an empty buffer: the synchronisation events, then four CMD transfers and the delay
(44_init R170). -/
theorem State.powerOnSequence_eq (s : State) (hcap : 5 ≤ s.cfg.cap) (hbuf : s.buf = []) :
    s.powerOnSequence =
      ((((((({ s with out := s.out ++ s.syncEvents } : State).afterTransfer
        (s.cfg.cEntryMode ||| s.emode) .cmd true).afterTransfer
        (s.cfg.cFunctionSet ||| s.fset) .cmd true).afterTransfer
        (s.cfg.cDisplayCtl ||| s.dctl) .cmd true).afterTransfer
        s.cfg.cClear .cmd false).afterDelay s.cfg.tClear).enter .cleared) := by
  unfold State.powerOnSequence
  rw [State.selectFourBit_synchronise s (by omega) hbuf, State.configure_eq _ (by simpa using hcap),
    State.clearDisplay_eq _ (by simpa using hcap)]
  rfl

end Sys2Proof.Machine
end

