-- ==== Sys2Proof/Laws/Exec.lean ====
section
/-! SUPPORT. Each arm of exec unfolded to the admission check and the procedures it runs, and those procedures in closed
form. -/

namespace Sys2Proof.Machine

/-! ### The arms -/

theorem exec_init (a c r : Byte) (s : State) :
    exec (.init a c r) s = s.built fun s => .next (s.supersede.resetSession a c r).powerOnSequence := rfl

theorem exec_writeChar (b : Bool) (c : Byte) (s : State) :
    exec (.writeChar b c) s = s.admitted fun s => .next (s.sendByte c .data b) := rfl

theorem exec_write (b : Bool) (data : List Byte) (s : State) :
    exec (.write b data) s = s.admitted fun s => .next ((s.sendAll data).flushUnless b) := rfl

theorem exec_setCursor (b : Bool) (l p : Byte) (s : State) :
    exec (.setCursor b l p) s = s.admitted fun s => s.setCursorProc l.toNat p.toNat b := rfl

theorem exec_clear (s : State) :
    exec .clear s = s.admitted fun s => .next s.clearDisplay := rfl

theorem exec_home (s : State) :
    exec .home s = s.admitted fun s => .next s.homeDisplay := rfl

theorem exec_backlight (s : State) :
    exec .backlight s = s.admitted fun s => .next (s.updateBacklight true) := rfl

theorem exec_noBacklight (s : State) :
    exec .noBacklight s = s.admitted fun s => .next (s.updateBacklight false) := rfl

theorem exec_cursor (s : State) :
    exec .cursor s = s.admitted fun s => .next (s.updateDisplay (setFlag s.dctl flagC)) := rfl

theorem exec_noCursor (s : State) :
    exec .noCursor s = s.admitted fun s => .next (s.updateDisplay (clearFlag s.dctl flagC)) := rfl

theorem exec_blink (s : State) :
    exec .blink s = s.admitted fun s => .next (s.updateDisplay (setFlag s.dctl flagB)) := rfl

theorem exec_noBlink (s : State) :
    exec .noBlink s = s.admitted fun s => .next (s.updateDisplay (clearFlag s.dctl flagB)) := rfl

theorem exec_display (s : State) :
    exec .display s = s.admitted fun s => .next (s.updateDisplay (setFlag s.dctl flagD)) := rfl

theorem exec_noDisplay (s : State) :
    exec .noDisplay s = s.admitted fun s => .next (s.updateDisplay (clearFlag s.dctl flagD)) := rfl

theorem exec_scrollLeft (s : State) :
    exec .scrollLeft s = s.admitted fun s => .next (s.sendByte (shiftLeftCommand s.cfg) .cmd false) := rfl

theorem exec_scrollRight (s : State) :
    exec .scrollRight s = s.admitted fun s => .next (s.sendByte (shiftRightCommand s.cfg) .cmd false) := rfl

theorem exec_autoscroll (s : State) :
    exec .autoscroll s = s.admitted fun s => .next (s.updateEntryMode (setFlag s.emode flagS)) := rfl

theorem exec_noAutoscroll (s : State) :
    exec .noAutoscroll s = s.admitted fun s => .next (s.updateEntryMode (clearFlag s.emode flagS)) := rfl

theorem exec_leftToRight (s : State) :
    exec .leftToRight s = s.admitted fun s => .next (s.updateEntryMode (setFlag s.emode flagID)) := rfl

theorem exec_rightToLeft (s : State) :
    exec .rightToLeft s = s.admitted fun s => .next (s.updateEntryMode (clearFlag s.emode flagID)) := rfl

theorem exec_createChar (slot : Byte) (g : Glyph) (s : State) :
    exec (.createChar slot g) s = s.admitted fun s =>
      ((s.sendByte (setCgramCommand s.cfg slot) .cmd true).sendAll g.rows).setCursorProc 0 0 false := rfl

theorem exec_showBuffer (s : State) :
    exec .showBuffer s = s.admitted fun s => .next (s.flush.deliver s.flushCount) := rfl

theorem exec_sendCmd (b : Bool) (v : Byte) (s : State) :
    exec (.sendCmd b v) s = s.admitted fun s => .next (s.sendByte v .cmd b) := rfl

theorem exec_sendData (b : Bool) (v : Byte) (s : State) :
    exec (.sendData b v) s = s.admitted fun s => .next (s.sendByte v .data b) := rfl

theorem exec_writeByte (b : Bool) (v : Byte) (s : State) :
    exec (.writeByte b v) s = s.admitted fun s => .next (s.writeRaw v b) := rfl

/-- Every operation but INIT runs behind the admission check (60_exceptions R195). -/
theorem exec_eq_admitted (i : Instr) (h : ∀ a c r, i ≠ .init a c r) :
    ∃ run : State → Answer, ∀ s, exec i s = s.admitted run := by
  cases i with
  | init a c r => exact absurd rfl (h a c r)
  | writeChar b c => exact ⟨_, exec_writeChar b c⟩
  | write b data => exact ⟨_, exec_write b data⟩
  | setCursor b l p => exact ⟨_, exec_setCursor b l p⟩
  | clear => exact ⟨_, exec_clear⟩
  | home => exact ⟨_, exec_home⟩
  | backlight => exact ⟨_, exec_backlight⟩
  | noBacklight => exact ⟨_, exec_noBacklight⟩
  | cursor => exact ⟨_, exec_cursor⟩
  | noCursor => exact ⟨_, exec_noCursor⟩
  | blink => exact ⟨_, exec_blink⟩
  | noBlink => exact ⟨_, exec_noBlink⟩
  | display => exact ⟨_, exec_display⟩
  | noDisplay => exact ⟨_, exec_noDisplay⟩
  | scrollLeft => exact ⟨_, exec_scrollLeft⟩
  | scrollRight => exact ⟨_, exec_scrollRight⟩
  | autoscroll => exact ⟨_, exec_autoscroll⟩
  | noAutoscroll => exact ⟨_, exec_noAutoscroll⟩
  | leftToRight => exact ⟨_, exec_leftToRight⟩
  | rightToLeft => exact ⟨_, exec_rightToLeft⟩
  | createChar slot g => exact ⟨_, exec_createChar slot g⟩
  | showBuffer => exact ⟨_, exec_showBuffer⟩
  | sendCmd b v => exact ⟨_, exec_sendCmd b v⟩
  | sendData b v => exact ⟨_, exec_sendData b v⟩
  | writeByte b v => exact ⟨_, exec_writeByte b v⟩

/-- An operation other than INIT has a next state only where it is admitted. -/
theorem ready_of_exec_next {i : Instr} {s t : State} (hi : ∀ a c r, i ≠ .init a c r) (h : exec i s = .next t) :
    s.Ready := by
  obtain ⟨run, hrun⟩ := exec_eq_admitted i hi
  rw [hrun] at h
  exact (State.admitted_next h).1

/-- No operation has a next state under an ill-formed CFG. -/
theorem wf_of_exec_next {i : Instr} {s t : State} (h : exec i s = .next t) : s.cfg.WF := by
  by_cases hi : ∀ a c r, i ≠ .init a c r
  · exact (ready_of_exec_next hi h).1
  · push Not at hi
    obtain ⟨a, c, r, rfl⟩ := hi
    rw [exec_init] at h
    exact (State.built_next h).1

/-! ### The toggles' procedures in closed form -/

theorem State.updateDisplay_eq (s : State) (v : Byte) (hcap : 5 ≤ s.cfg.cap) :
    s.updateDisplay v = ({ s with dctl := v } : State).afterTransfer (s.cfg.cDisplayCtl ||| v) .cmd false :=
  State.sendByte_eq_afterTransfer { s with dctl := v } _ _ _ hcap

theorem State.updateEntryMode_eq (s : State) (v : Byte) (hcap : 5 ≤ s.cfg.cap) :
    s.updateEntryMode v = ({ s with emode := v } : State).afterTransfer (s.cfg.cEntryMode ||| v) .cmd false :=
  State.sendByte_eq_afterTransfer { s with emode := v } _ _ _ hcap

theorem State.updateBacklight_eq (s : State) (v : Bool) (hcap : 1 ≤ s.cfg.cap) :
    s.updateBacklight v = ({ s with bl := v } : State).afterBytes 1 [blBits s.cfg v] false := by
  unfold State.updateBacklight
  rw [State.writeRaw_eq_afterRaw { s with bl := v } _ _ hcap]
  simp [State.afterRaw]

/-! ### Addresses -/

/-- The cursor procedure where R113 names an address: one CMD transfer of it. -/
theorem State.setCursorProc_of_some {s : State} {line position : Nat} {a : BitVec 7} (buf : Bool)
    (hcap : 5 ≤ s.cfg.cap) (h : ddramAddress s.cfg (clampIndex line s.rows) (clampIndex position s.cols) = some a) :
    s.setCursorProc line position buf = .next (s.afterTransfer (setDdramCommand s.cfg a) .cmd buf) := by
  unfold State.setCursorProc
  rw [h]
  simp only [State.sendByte_eq_afterTransfer _ _ _ _ hcap]

/-- A line in the table and a target inside 7 bits give the address `ROWBASE[line] + position`. -/
theorem ddramAddress_of_le {c : Config} {line position : Nat} (hline : line < 4)
    (h : (c.rowBase[line]).toNat + position ≤ 0x7F) :
    ddramAddress c line position = some (BitVec.ofNat 7 ((c.rowBase[line]).toNat + position)) := by
  unfold ddramAddress
  rw [Vector.getElem?_eq_getElem hline]
  simp only [h, if_true]

/-- Line 0, column 0 is always in the table. -/
theorem ddramAddress_zero (c : Config) : ddramAddress c 0 0 = some c.rowBase[0] := by
  have h := c.rowBase[0].isLt
  rw [ddramAddress_of_le (by omega) (by omega)]
  simp

/-- A legal Session's clamped line is in the table and its target is inside 7 bits (41_text_cursor R114). -/
theorem State.SessionLegal.target_le {s : State} (hwf : s.cfg.WF) (h : s.SessionLegal) (line position : Nat) :
    ∃ hl : clampIndex line s.rows < 4,
      (s.cfg.rowBase[clampIndex line s.rows]).toNat + clampIndex position s.cols ≤ 0x7F := by
  obtain ⟨-, -, ⟨-, hmax⟩, -, hrows, -⟩ := hwf
  obtain ⟨⟨hr1, hr2⟩, ⟨hc1, hc2⟩, -⟩ := h
  have hl : clampIndex line s.rows ≤ s.rows - 1 := Nat.min_le_right _ _
  have hp : clampIndex position s.cols ≤ s.cols - 1 := Nat.min_le_right _ _
  have h4 : clampIndex line s.rows < 4 := by omega
  refine ⟨h4, ?_⟩
  have hfit := hrows ⟨clampIndex line s.rows, h4⟩ (by simp only; omega)
  simp only [Fin.getElem_fin] at hfit
  omega

end Sys2Proof.Machine
end

