-- ==== Sys2Proof/Laws/Outcome.lean ====
section
/-! SUPPORT. One lemma for what every operation but INIT does: the state it leaves, in closed form. Provers cite it and
never unfold a meaning. -/

namespace Sys2Proof.Machine

/-- What every operation but INIT leaves when it completes, written from its rule over the closed forms of Safety. INIT
has laws of its own in Laws/Init. -/
def Leaves (s t : State) : Instr → Prop
  | .init _ _ _ => False
  | .writeChar b c => t = s.afterTransfer c .data b
  | .write b d => t = if b then s.afterData d else (s.afterData d).afterShow
  | .setCursor b l p =>
    ∃ a, ddramAddress s.cfg (clampIndex l.toNat s.rows) (clampIndex p.toNat s.cols) = some a ∧ t = s.afterTransfer (setDdramCommand s.cfg a) .cmd b
  | .clear => t = (s.afterTransfer s.cfg.cClear .cmd false).afterDelay s.cfg.tClear
  | .home => t = (s.afterTransfer s.cfg.cHome .cmd false).afterDelay s.cfg.tHome
  | .backlight => t = ({ s with bl := true } : State).afterBytes 1 [s.cfg.blMask] false
  | .noBacklight => t = ({ s with bl := false } : State).afterBytes 1 [0] false
  | .cursor => t = ({ s with dctl := s.dctl ||| 2 } : State).afterTransfer (s.cfg.cDisplayCtl ||| (s.dctl ||| 2)) .cmd false
  | .noCursor => t = ({ s with dctl := s.dctl &&& 0xFD } : State).afterTransfer (s.cfg.cDisplayCtl ||| (s.dctl &&& 0xFD)) .cmd false
  | .blink => t = ({ s with dctl := s.dctl ||| 1 } : State).afterTransfer (s.cfg.cDisplayCtl ||| (s.dctl ||| 1)) .cmd false
  | .noBlink => t = ({ s with dctl := s.dctl &&& 0xFE } : State).afterTransfer (s.cfg.cDisplayCtl ||| (s.dctl &&& 0xFE)) .cmd false
  | .display => t = ({ s with dctl := s.dctl ||| 4 } : State).afterTransfer (s.cfg.cDisplayCtl ||| (s.dctl ||| 4)) .cmd false
  | .noDisplay => t = ({ s with dctl := s.dctl &&& 0xFB } : State).afterTransfer (s.cfg.cDisplayCtl ||| (s.dctl &&& 0xFB)) .cmd false
  | .scrollLeft => t = s.afterTransfer (s.cfg.cShift ||| 8) .cmd false
  | .scrollRight => t = s.afterTransfer (s.cfg.cShift ||| 8 ||| 4) .cmd false
  | .autoscroll => t = ({ s with emode := s.emode ||| 1 } : State).afterTransfer (s.cfg.cEntryMode ||| (s.emode ||| 1)) .cmd false
  | .noAutoscroll => t = ({ s with emode := s.emode &&& 0xFE } : State).afterTransfer (s.cfg.cEntryMode ||| (s.emode &&& 0xFE)) .cmd false
  | .leftToRight => t = ({ s with emode := s.emode ||| 2 } : State).afterTransfer (s.cfg.cEntryMode ||| (s.emode ||| 2)) .cmd false
  | .rightToLeft => t = ({ s with emode := s.emode &&& 0xFD } : State).afterTransfer (s.cfg.cEntryMode ||| (s.emode &&& 0xFD)) .cmd false
  | .createChar slot g =>
    t = ((s.afterTransfer (setCgramCommand s.cfg slot) .cmd true).afterData g.rows).afterTransfer (setDdramCommand s.cfg s.cfg.rowBase[0]) .cmd false
  | .showBuffer => t = s.afterShow.deliver s.fill
  | .sendCmd b v => t = s.afterTransfer v .cmd b
  | .sendData b v => t = s.afterTransfer v .data b
  | .writeByte b v => t = s.afterRaw v b

/-- The glyph load of a ready state in closed form. -/
theorem exec_createChar_ready {s : State} (hr : s.Ready) (slot : Byte) (g : Glyph) : exec (.createChar slot g) s =
    .next (((s.afterTransfer (setCgramCommand s.cfg slot) .cmd true).afterData g.rows).afterTransfer (setDdramCommand s.cfg s.cfg.rowBase[0]) .cmd false) := by
  have hc : 5 ≤ s.cfg.cap := hr.1.1
  rw [exec_createChar, State.admitted_of_ready hr, State.sendByte_eq_afterTransfer _ _ _ _ hc, State.sendAll_eq_afterData _ _ (by simpa using hc)]
  rw [State.setCursorProc_of_some (a := s.cfg.rowBase[0]) _ (by simpa using hc) (by
    have h0 : ∀ n, clampIndex 0 n = 0 := fun n => by simp [clampIndex]
    rw [h0, h0]; simpa using ddramAddress_zero s.cfg)]
  simp

/-- On a ready state, an operation other than INIT answers exactly the state `Leaves` describes. -/
theorem exec_next_iff {i : Instr} {s t : State} (hi : ∀ a c r, i ≠ .init a c r) (hr : s.Ready) : exec i s = .next t ↔ Leaves s t i := by
  have hc : 5 ≤ s.cfg.cap := hr.1.1
  have hc1 : 1 ≤ s.cfg.cap := by omega
  have hwf := hr.1
  have nx : ∀ a b : State, ((Host.Outcome.next a : Answer) = .next b) ↔ b = a := fun a b => ⟨fun h => by cases h; rfl, fun h => by rw [h]⟩
  cases i with
  | init a c r => exact absurd rfl (hi a c r)
  | createChar slot g => rw [exec_createChar_ready hr, nx]; rfl
  | setCursor b l p =>
    rw [exec_setCursor, State.admitted_of_ready hr]
    simp only [Leaves]
    cases h : ddramAddress s.cfg (clampIndex l.toNat s.rows) (clampIndex p.toNat s.cols) with
    | none => simp [State.setCursorProc, h]
    | some a => rw [State.setCursorProc_of_some b hc h, nx]; simp
  | backlight => rw [exec_backlight, State.admitted_of_ready hr, State.updateBacklight_eq _ _ hc1, nx]; rfl
  | noBacklight => rw [exec_noBacklight, State.admitted_of_ready hr, State.updateBacklight_eq _ _ hc1, nx]; rfl
  | write b d => rw [exec_write, State.admitted_of_ready hr, State.sendAll_eq_afterData _ _ hc, nx]; cases b <;> simp [Leaves, State.flushUnless, State.flush_eq_afterShow]
  | showBuffer => rw [exec_showBuffer, State.admitted_of_ready hr, nx, State.flush_eq_afterShow]; rfl
  | writeByte b v => rw [exec_writeByte, State.admitted_of_ready hr, State.writeRaw_eq_afterRaw _ _ _ hc1, nx]; rfl
  | clear => rw [exec_clear, State.admitted_of_ready hr, State.clearDisplay_eq _ hc, nx]; rfl
  | home => rw [exec_home, State.admitted_of_ready hr, State.homeDisplay_eq _ hc, nx]; rfl
  | cursor => rw [exec_cursor, State.admitted_of_ready hr, State.updateDisplay_eq _ _ hc, nx]; rfl
  | noCursor => rw [exec_noCursor, State.admitted_of_ready hr, State.updateDisplay_eq _ _ hc, nx]; rfl
  | blink => rw [exec_blink, State.admitted_of_ready hr, State.updateDisplay_eq _ _ hc, nx]; rfl
  | noBlink => rw [exec_noBlink, State.admitted_of_ready hr, State.updateDisplay_eq _ _ hc, nx]; rfl
  | display => rw [exec_display, State.admitted_of_ready hr, State.updateDisplay_eq _ _ hc, nx]; rfl
  | noDisplay => rw [exec_noDisplay, State.admitted_of_ready hr, State.updateDisplay_eq _ _ hc, nx]; rfl
  | autoscroll => rw [exec_autoscroll, State.admitted_of_ready hr, State.updateEntryMode_eq _ _ hc, nx]; rfl
  | noAutoscroll => rw [exec_noAutoscroll, State.admitted_of_ready hr, State.updateEntryMode_eq _ _ hc, nx]; rfl
  | leftToRight => rw [exec_leftToRight, State.admitted_of_ready hr, State.updateEntryMode_eq _ _ hc, nx]; rfl
  | rightToLeft => rw [exec_rightToLeft, State.admitted_of_ready hr, State.updateEntryMode_eq _ _ hc, nx]; rfl
  | scrollLeft => rw [exec_scrollLeft, State.admitted_of_ready hr, State.sendByte_eq_afterTransfer _ _ _ _ hc, nx]; rfl
  | scrollRight => rw [exec_scrollRight, State.admitted_of_ready hr, State.sendByte_eq_afterTransfer _ _ _ _ hc, nx]; rfl
  | writeChar b c => rw [exec_writeChar, State.admitted_of_ready hr, State.sendByte_eq_afterTransfer _ _ _ _ hc, nx]; rfl
  | sendCmd b c => rw [exec_sendCmd, State.admitted_of_ready hr, State.sendByte_eq_afterTransfer _ _ _ _ hc, nx]; rfl
  | sendData b c => rw [exec_sendData, State.admitted_of_ready hr, State.sendByte_eq_afterTransfer _ _ _ _ hc, nx]; rfl

/-- Whatever operation other than INIT completes ran on a ready state and left what `Leaves` says. -/
theorem leaves_of_exec {i : Instr} {s t : State} (hi : ∀ a c r, i ≠ .init a c r) (h : exec i s = .next t) : s.Ready ∧ Leaves s t i := by
  have hr := ready_of_exec_next hi h
  exact ⟨hr, (exec_next_iff hi hr).mp h⟩

/-- The way back. -/
theorem exec_of_leaves {i : Instr} {s t : State} (hi : ∀ a c r, i ≠ .init a c r) (hr : s.Ready) (h : Leaves s t i) : exec i s = .next t := (exec_next_iff hi hr).mpr h

end Sys2Proof.Machine
end

