-- ==== Sys2Proof/Laws/PerInstr.lean ====
section
/-! SUPPORT. One per-instruction family: how many bytes an operation takes on the command port (30_encoding R73). -/

namespace Sys2Proof.Laws.EncodeLength

/-- The length column of the format table (30_encoding R73): N 1, V 2, P 3, I 4, G 10, S 2 + n. -/
def bytes : Instr → Nat
  | .init _ _ _ => 4
  | .writeChar _ _ => 2
  | .write _ data => 2 + data.length
  | .setCursor _ _ _ => 3
  | .clear => 1
  | .home => 1
  | .backlight => 1
  | .noBacklight => 1
  | .cursor => 1
  | .noCursor => 1
  | .blink => 1
  | .noBlink => 1
  | .display => 1
  | .noDisplay => 1
  | .scrollLeft => 1
  | .scrollRight => 1
  | .autoscroll => 1
  | .noAutoscroll => 1
  | .leftToRight => 1
  | .rightToLeft => 1
  | .createChar _ _ => 10
  | .showBuffer => 1
  | .sendCmd _ _ => 2
  | .sendData _ _ => 2
  | .writeByte _ _ => 2

/-- The encoder writes as many bytes as the format says. -/
def Statement (i : Instr) : Prop := (encode i).length = bytes i

theorem init (address columns rows : Byte) : Statement (.init address columns rows) := rfl

theorem writeChar (b : Bool) (c : Byte) : Statement (.writeChar b c) := rfl

theorem write (b : Bool) (data : List Byte) : Statement (.write b data) := by simp [Statement, encode, bytes]; omega

theorem setCursor (b : Bool) (line position : Byte) : Statement (.setCursor b line position) := rfl

theorem clear : Statement .clear := rfl

theorem home : Statement .home := rfl

theorem backlight : Statement .backlight := rfl

theorem noBacklight : Statement .noBacklight := rfl

theorem cursor : Statement .cursor := rfl

theorem noCursor : Statement .noCursor := rfl

theorem blink : Statement .blink := rfl

theorem noBlink : Statement .noBlink := rfl

theorem display : Statement .display := rfl

theorem noDisplay : Statement .noDisplay := rfl

theorem scrollLeft : Statement .scrollLeft := rfl

theorem scrollRight : Statement .scrollRight := rfl

theorem autoscroll : Statement .autoscroll := rfl

theorem noAutoscroll : Statement .noAutoscroll := rfl

theorem leftToRight : Statement .leftToRight := rfl

theorem rightToLeft : Statement .rightToLeft := rfl

theorem createChar (slot : Byte) (bitmap : Glyph) : Statement (.createChar slot bitmap) := rfl

theorem showBuffer : Statement .showBuffer := rfl

theorem sendCmd (b : Bool) (v : Byte) : Statement (.sendCmd b v) := rfl

theorem sendData (b : Bool) (v : Byte) : Statement (.sendData b v) := rfl

theorem writeByte (b : Bool) (v : Byte) : Statement (.writeByte b v) := rfl

end Sys2Proof.Laws.EncodeLength
end

