-- ==== Sys2Proof/Laws/Step.lean ====
section
/-! SUPPORT. What the command port offers, and what a step can do. -/

namespace Sys2Proof.Machine

theorem fetch_of_decode {port rest : List Byte} {i : Instr} (h : decode port = .ok (i, rest)) :
    fetch port = .op i rest := by
  cases port with
  | nil => simp [decode] at h
  | cons b bs => simp [fetch, h]

theorem fetch_of_reject {port : List Byte} {why : Reject} (hne : port ≠ []) (h : decode port = .error why) :
    fetch port = .invalid why := by
  cases port with
  | nil => exact absurd rfl hne
  | cons b bs => simp [fetch, h]

/-- An operation on the port came from the decoder. -/
theorem decode_of_fetch {port rest : List Byte} {i : Instr} (h : fetch port = .op i rest) :
    decode port = .ok (i, rest) := by
  cases port with
  | nil => simp [fetch] at h
  | cons b bs =>
    simp only [fetch] at h
    split at h
    · cases h
    · rename_i heq
      cases h
      exact heq

/-- Where a settled answer goes on: the operation's own next state, or the marked state of an Uninitialised one. -/
theorem settle_next {s t : State} {answer : Answer} (h : settle s answer = .next t) :
    answer = .next t ∨ (answer = .refused .uninitialised ∧ t = { s with containsRefusal := true }) := by
  unfold settle at h
  split at h
  · exact Or.inr ⟨rfl, by cases h; rfl⟩
  · cases h
  · cases h
  · exact Or.inl h

/-- Everything a step can do where it answers a next state: nothing, an operation run with its bytes consumed, or the
mark of an Uninitialised one. -/
theorem step_next {s t : State} (h : step s = .next t) :
    s.cfg.WF ∧ ((s.port = [] ∧ t = s) ∨
      ∃ i rest, decode s.port = .ok (i, rest) ∧
        (exec i (s.withPort rest) = .next t ∨
          (exec i (s.withPort rest) = .refused .uninitialised ∧
            t = { s.withPort rest with containsRefusal := true }))) := by
  obtain ⟨hwf, h⟩ := State.built_next h
  refine ⟨hwf, ?_⟩
  split at h
  · rename_i hf
    refine Or.inl ⟨?_, by cases h; rfl⟩
    cases hp : s.port with
    | nil => rfl
    | cons b bs =>
      rw [hp] at hf
      simp only [fetch] at hf
      split at hf <;> cases hf
  · cases h
  · rename_i i rest hf
    exact Or.inr ⟨i, rest, decode_of_fetch hf, settle_next h⟩

end Sys2Proof.Machine
end

