-- ==== Sys2Proof/Tests/Slice0.lean ====
section
/-! SUPPORT. The model's own tests. Every expected result is copied from a vector of spec/95_test_vectors.md (its number
stands in the docstring) or written out from the encoding tables of 30_encoding. Then one witness for each obligation
with hypotheses, at the boundary values of its clauses. -/

open Sys2Proof Sys2Proof.Machine Sys2Proof.Claims

namespace Sys2Proof.Tests

/-! ### Small states and views -/

/-- The spec's S0: a Session as INIT 0x27, 20, 4 leaves it (95_test_vectors section 2), with an empty trace. -/
def live : State :=
  { State.reset with
    initState := .cleared
    addr := 0x27
    rows := 4
    cols := 20
    dctl := 0x04
    emode := 0x02
    fset := 0x08
    lastMode := some .cmd }

/-- S0(2,16). -/
def live2 : State := { live with rows := 2, cols := 16 }

/-- S0 with 5 bytes pending in DATA mode: `81 41` from S0 (V23b). -/
def busy : State := { live with lastMode := some .data, buf := [0x01, 0x45, 0x41, 0x15, 0x11] }

/-- `s` with `n` equal bytes pending. -/
def filled (s : State) (n : Nat) : State := { s with buf := List.replicate n 0x30 }

/-- `s` under another capacity. -/
def withCap (s : State) (cap : Nat) : State := { s with cfg := { s.cfg with cap := cap } }

/-- `s` with bytes waiting on the command port. -/
def fed (s : State) (bytes : List Byte) : State := { s with port := bytes }

/-- The configuration with an empty buffer, which R7 refuses. -/
def illFormed : State := withCap live 0

/-- The next state, if there is one. -/
def nextOf : Answer → Option State
  | .next t => some t
  | .fault _ => none
  | .refused _ => none

/-- There is a next state. -/
def runs (a : Answer) : Bool := (nextOf a).isSome

/-- What an answer shows: the trace and the pending bytes. -/
def shows (a : Answer) : Option (List Event × List Byte) := (nextOf a).map fun t => (t.out, t.buf)

/-- The refusal, if the answer is one. -/
def refusalOf : Answer → Option Refusal
  | .next _ => none
  | .fault _ => none
  | .refused r => some r

/-- The fault, if the answer is one. -/
def faultOf : Answer → Option Fault
  | .next _ => none
  | .fault f => some f
  | .refused _ => none

theorem next_of_runs {a : Answer} (h : runs a = true) : ∃ t, a = .next t := by
  cases a with
  | next t => exact ⟨t, rfl⟩
  | fault => cases h
  | refused => cases h

theorem next_of_view {a : Answer} {p : State → Bool} (h : (nextOf a).any p = true) : ∃ t, a = .next t ∧ p t = true := by
  cases a with
  | next t => exact ⟨t, rfl, h⟩
  | fault => cases h
  | refused => cases h

theorem refused_of {a : Answer} {r : Refusal} (h : refusalOf a = some r) : a = .refused r := by
  cases a with
  | next => cases h
  | fault => cases h
  | refused q => cases h; rfl

theorem fault_of {a : Answer} {f : Fault} (h : faultOf a = some f) : a = .fault f := by
  cases a with
  | next => cases h
  | fault q => cases h; rfl
  | refused => cases h

/-! ### Well-formedness -/

/-- R73: the size of WRITE is one byte, so 256 data bytes have no encoding. -/
theorem test_wellformed_refuses_long_write : WellFormed (.write false (List.replicate 256 0x41)) = false := by decide +kernel

/-- R73: 255 data bytes do. -/
theorem test_wellformed_accepts_longest_write : WellFormed (.write true (List.replicate 255 0x41)) = true := by decide +kernel

/-! ### Decoding: words written out from R71 to R73 -/

theorem test_decode_init : decode [0b00000000, 0x27, 0x14, 0x04] = .ok (.init 0x27 0x14 0x04, []) := by decide
theorem test_decode_writeChar : decode [0b10000001, 0x41] = .ok (.writeChar true 0x41, []) := by decide
theorem test_decode_write : decode [0b00000010, 2, 0x48, 0x69, 7] = .ok (.write false [0x48, 0x69], [7]) := by decide
theorem test_decode_setCursor : decode [0b10000011, 1, 3] = .ok (.setCursor true 1 3, []) := by decide
theorem test_decode_clear : decode [0b00000100] = .ok (.clear, []) := by decide
theorem test_decode_home : decode [0b00000101] = .ok (.home, []) := by decide
theorem test_decode_backlight : decode [0b00000110] = .ok (.backlight, []) := by decide
theorem test_decode_noBacklight : decode [0b00000111] = .ok (.noBacklight, []) := by decide
theorem test_decode_cursor : decode [0b00001000] = .ok (.cursor, []) := by decide
theorem test_decode_noCursor : decode [0b00001001] = .ok (.noCursor, []) := by decide
theorem test_decode_blink : decode [0b00001010] = .ok (.blink, []) := by decide
theorem test_decode_noBlink : decode [0b00001011] = .ok (.noBlink, []) := by decide
theorem test_decode_display : decode [0b00001100] = .ok (.display, []) := by decide
theorem test_decode_noDisplay : decode [0b00001101] = .ok (.noDisplay, []) := by decide
theorem test_decode_scrollLeft : decode [0b00001110] = .ok (.scrollLeft, []) := by decide
theorem test_decode_scrollRight : decode [0b00001111] = .ok (.scrollRight, []) := by decide
theorem test_decode_autoscroll : decode [0b00010000] = .ok (.autoscroll, []) := by decide
theorem test_decode_noAutoscroll : decode [0b00010001] = .ok (.noAutoscroll, []) := by decide
theorem test_decode_leftToRight : decode [0b00010010] = .ok (.leftToRight, []) := by decide
theorem test_decode_rightToLeft : decode [0b00010011] = .ok (.rightToLeft, []) := by decide
theorem test_decode_createChar : decode [0b00010100, 9, 0, 0x0A, 0x1F, 0x1F, 0x0E, 4, 0, 1] =
    .ok (.createChar 9 ⟨0, 0x0A, 0x1F, 0x1F, 0x0E, 4, 0, 1⟩, []) := by decide
theorem test_decode_showBuffer : decode [0b00010101] = .ok (.showBuffer, []) := by decide
theorem test_decode_sendCmd : decode [0b10010110, 0x0C] = .ok (.sendCmd true 0x0C, []) := by decide
theorem test_decode_sendData : decode [0b00010111, 0x48] = .ok (.sendData false 0x48, []) := by decide
theorem test_decode_writeByte : decode [0b00011000, 0x30] = .ok (.writeByte false 0x30, []) := by decide

/-- V72 to V76. -/
theorem test_decode_rejects :
    decode [0x19] = .error .reservedOp ∧ decode [0x9F] = .error .reservedOp ∧
    decode [0x84] = .error .bufferingNotAllowed ∧ decode [0x95] = .error .bufferingNotAllowed ∧
    decode [0x21] = .error .reservedBits ∧ decode [0x41] = .error .reservedBits ∧
    decode [0x03, 0x01] = .error .truncated ∧ decode [0x02, 0x03, 0x41, 0x42] = .error .truncated := by decide

/-- The table numbers bit 0 as the least significant bit of the first byte; a missing operand is 0. -/
theorem test_table_word : decodeTableWord 32 0x04142700 = some (.init 0x27 0x14 0x04) ∧
    decodeTableWord 8 0x83 = some (.setCursor true 0 0) ∧ decodeTableWord 8 0x1F = none ∧
    decodeTableWord 16 0x0302 = some (.write false [0, 0, 0]) := by decide

/-- A table word stored where the step reads is what the next step runs. -/
theorem test_withFetchWord :
    (live.withFetchWord 8 0x05).port = [0x05] ∧
    shows (step (live.withFetchWord 8 0x05)) = some ([.bw 0x27 [0x04, 0x00, 0x24, 0x20], .dly 2000], []) := by decide

/-! ### One step of each operation, against the spec's vectors -/

/-- V60. -/
theorem test_init : shows (exec (.init 0x27 20 4) State.reset) = some (
    [.bw 0x27 [0x34, 0x30], .dly 4500, .bw 0x27 [0x34, 0x30], .dly 4500, .bw 0x27 [0x34, 0x30], .dly 150,
      .bw 0x27 [0x24, 0x20],
      .bw 0x27 [0x00, 0x04, 0x00, 0x64, 0x60, 0x24, 0x20, 0x84, 0x80, 0x04, 0x00, 0xC4, 0xC0, 0x04, 0x00, 0x14, 0x10],
      .dly 2000], []) := by decide

/-- V60 and V62: the end state is S0; the geometry clamps. -/
theorem test_init_end :
    (nextOf (exec (.init 0x27 20 4) State.reset)).map (fun t => { t with out := [] }) = some live ∧
    (nextOf (exec (.init 0x27 0 0) State.reset)).map (fun t => (t.cols, t.rows, t.fset)) = some (1, 1, 0x00) ∧
    (nextOf (exec (.init 0x27 99 9) State.reset)).map (fun t => (t.cols, t.rows, t.fset)) = some (20, 4, 0x08) := by
  decide

/-- V63: pending bytes go to the old address first. -/
theorem test_init_supersedes :
    (nextOf (exec (.init 0x3F 20 4) { live2 with buf := [0x01, 0x75, 0x71, 0x85, 0x81], lastMode := some .data })).map
      (fun t => (t.out.take 2, t.addr)) =
    some ([.bw 0x27 [0x01, 0x75, 0x71, 0x85, 0x81], .bw 0x3F [0x34, 0x30]], 0x3F) := by decide

/-- V23 and V23b. -/
theorem test_writeChar :
    shows (exec (.writeChar false 0x41) { live with lastMode := some .data, bl := true }) =
      some ([.bw 0x27 [0x4D, 0x49, 0x1D, 0x19]], []) ∧
    shows (exec (.writeChar true 0x41) live) = some ([], [0x01, 0x45, 0x41, 0x15, 0x11]) := by decide

/-- V22 and V23c. -/
theorem test_write :
    shows (exec (.write false [0x48, 0x69]) live) =
      some ([.bw 0x27 [0x01, 0x45, 0x41, 0x85, 0x81, 0x65, 0x61, 0x95, 0x91]], []) ∧
    nextOf (exec (.write true []) live) = some live := by decide

/-- V23d: the eighth character enters with FILL = 29. -/
theorem test_write_overflows :
    shows (exec (.write false [0x30, 0x31, 0x32, 0x33, 0x34, 0x35, 0x36, 0x37, 0x38]) live) = some ([
      .bw 0x27 [0x01, 0x35, 0x31, 0x05, 0x01, 0x35, 0x31, 0x15, 0x11, 0x35, 0x31, 0x25, 0x21, 0x35, 0x31, 0x35, 0x31,
        0x35, 0x31, 0x45, 0x41, 0x35, 0x31, 0x55, 0x51, 0x35, 0x31, 0x65, 0x61],
      .bw 0x27 [0x35, 0x31, 0x75, 0x71, 0x35, 0x31, 0x85, 0x81]], []) := by decide

/-- V24 and V25h. -/
theorem test_setCursor :
    shows (exec (.setCursor false 5 99) live2) = some ([.bw 0x27 [0xC4, 0xC0, 0xF4, 0xF0]], []) ∧
    shows (exec (.setCursor false 0 255) live) = some ([.bw 0x27 [0x94, 0x90, 0x34, 0x30]], []) := by decide

/-- V28: CAP = 8, four bytes pending. -/
theorem test_clear :
    shows (exec .clear { withCap live 8 with lastMode := some .data, buf := [0x45, 0x41, 0x35, 0x31] }) =
      some ([.bw 0x27 [0x45, 0x41, 0x35, 0x31], .bw 0x27 [0x00, 0x04, 0x00, 0x14, 0x10], .dly 2000], []) := by decide

/-- V27. -/
theorem test_home : shows (exec .home live) = some ([.bw 0x27 [0x04, 0x00, 0x24, 0x20], .dly 2000], []) := by decide

/-- V30 with CAP = 64 from S0, slot 9. -/
theorem test_createChar : shows (exec (.createChar 9 ⟨0x00, 0x0A, 0x1F, 0x1F, 0x0E, 0x04, 0x00, 0x00⟩) (withCap live 64)) =
    some ([.bw 0x27 [0x74, 0x70, 0x84, 0x80, 0x01, 0x05, 0x01, 0x05, 0x01, 0x05, 0x01, 0xA5, 0xA1, 0x15, 0x11, 0xF5, 0xF1,
      0x15, 0x11, 0xF5, 0xF1, 0x05, 0x01, 0xE5, 0xE1, 0x05, 0x01, 0x45, 0x41, 0x05, 0x01, 0x05, 0x01, 0x05, 0x01, 0x05,
      0x01, 0x00, 0x84, 0x80, 0x04, 0x00]], []) := by decide

/-- V52, V53 and V56. -/
theorem test_backlight :
    shows (exec .backlight live) = some ([.bw 0x27 [0x08]], []) ∧
    shows (exec .noBacklight live) = some ([.bw 0x27 [0x00]], []) ∧
    shows (exec .backlight busy) = some ([.bw 0x27 [0x01, 0x45, 0x41, 0x15, 0x11, 0x08]], []) := by decide

/-- V40 to V45. -/
theorem test_display_toggles :
    shows (exec .display live) = some ([.bw 0x27 [0x04, 0x00, 0xC4, 0xC0]], []) ∧
    shows (exec .noDisplay live) = some ([.bw 0x27 [0x04, 0x00, 0x84, 0x80]], []) ∧
    shows (exec .cursor live) = some ([.bw 0x27 [0x04, 0x00, 0xE4, 0xE0]], []) ∧
    shows (exec .noCursor live) = some ([.bw 0x27 [0x04, 0x00, 0xC4, 0xC0]], []) ∧
    shows (exec .blink live) = some ([.bw 0x27 [0x04, 0x00, 0xD4, 0xD0]], []) ∧
    shows (exec .noBlink live) = some ([.bw 0x27 [0x04, 0x00, 0xC4, 0xC0]], []) := by decide

/-- V46 to V49. -/
theorem test_entry_toggles :
    shows (exec .autoscroll live) = some ([.bw 0x27 [0x04, 0x00, 0x74, 0x70]], []) ∧
    shows (exec .noAutoscroll live) = some ([.bw 0x27 [0x04, 0x00, 0x64, 0x60]], []) ∧
    shows (exec .leftToRight live) = some ([.bw 0x27 [0x04, 0x00, 0x64, 0x60]], []) ∧
    shows (exec .rightToLeft live) = some ([.bw 0x27 [0x04, 0x00, 0x44, 0x40]], []) := by decide

/-- V50, V51 and V55: the shifts, and the mode byte after DATA. -/
theorem test_scrolls :
    shows (exec .scrollLeft live) = some ([.bw 0x27 [0x14, 0x10, 0x84, 0x80]], []) ∧
    shows (exec .scrollRight live) = some ([.bw 0x27 [0x14, 0x10, 0xC4, 0xC0]], []) ∧
    shows (exec .scrollRight { live with lastMode := some .data }) =
      some ([.bw 0x27 [0x00, 0x14, 0x10, 0xC4, 0xC0]], []) := by decide

/-- V11 and V12: SHOW returns the number of bytes it sent, and 0 with nothing pending. -/
theorem test_showBuffer :
    (nextOf (exec .showBuffer busy)).map (fun t => (t.out, t.buf, t.results)) = some ([.bw 0x27 busy.buf], [], [5]) ∧
    (nextOf (exec .showBuffer live)).map (fun t => (t.out, t.results)) = some ([], [0]) := by decide

/-- V20a, V20b and V20f. -/
theorem test_send :
    shows (exec (.sendData true 0x48) live) = some ([], [0x01, 0x45, 0x41, 0x85, 0x81]) ∧
    shows (exec (.sendCmd true 0x0C) busy) =
      some ([], [0x01, 0x45, 0x41, 0x15, 0x11, 0x00, 0x04, 0x00, 0xC4, 0xC0]) ∧
    shows (exec (.sendCmd false 0x0C) { live with bl := true }) = some ([.bw 0x27 [0x0C, 0x08, 0xCC, 0xC8]], []) := by
  decide

/-- V15 to V17: the room check at its boundary. -/
theorem test_room_check :
    (nextOf (exec (.sendData true 0x41) (filled live 27))).map (fun t => (t.out, t.fill)) = some ([], 32) ∧
    (nextOf (exec (.sendData true 0x41) (filled live 28))).map (fun t => (t.out.length, t.fill)) = some (1, 5) ∧
    (nextOf (exec (.sendData true 0x41) { filled live 28 with lastMode := some .data })).map
      (fun t => (t.out.length, t.fill)) = some (1, 4) := by decide

/-- V19 and V20e. -/
theorem test_writeByte :
    (nextOf (exec (.writeByte true 0x30) (filled live 31))).map (fun t => (t.out, t.fill)) = some ([], 32) ∧
    (nextOf (exec (.writeByte true 0x30) (filled live 32))).map (fun t => (t.out.length, t.fill)) = some (1, 1) ∧
    shows (exec (.writeByte false 0x00) { live with bl := true }) = some ([.bw 0x27 [0x08]], []) := by decide

/-- V70: an uninitialised operation is refused, its bytes are consumed, and the run is marked. -/
theorem test_uninitialised :
    refusalOf (exec (.writeChar false 0x41) State.reset) = some .uninitialised ∧
    nextOf (step (fed State.reset [0x01, 0x41])) = some { State.reset with containsRefusal := true } := by decide

/-- V77: the encoding is checked before initialisation. -/
theorem test_refusal_order : refusalOf (step (fed State.reset [0x19])) = some (.invalidEncoding .reservedOp) ∧
    refusalOf (step { illFormed with port := [0x19] }) = some .illFormedConfig := by decide

/-! ### Witnesses: the hypotheses of each obligation can be met -/

/-- More rows than the table has lines: a state no run reaches, where the model's own stop stands (log entry 8). -/
def tooManyRows : State := { live with rows := 9 }

/-- More columns than line 3, which starts at 0x54, has room for below 0x80: the stop's other way. -/
def tooManyCols : State := { live with cols := 100 }

theorem witness_DecodeOfEncode : WellFormed (.write true (List.replicate 255 0x41)) = true ∧
    WellFormed (.createChar 255 ⟨0, 1, 2, 3, 4, 5, 6, 7⟩) = true ∧ WellFormed (.write false []) = true := by decide +kernel

theorem witness_DecodedBytesAreEncoded : decode [0x82, 0x01, 0x41, 0x15] = .ok (.write true [0x41], [0x15]) := by decide

/-- Headers on both sides of every boundary of R75. -/
theorem witness_ReservedHeadersRejected :
    (0x20 : Byte).extractLsb' 5 2 ≠ 0 ∧ (0x1F : Byte).extractLsb' 5 2 = 0 ∧ (0x99 : Byte).extractLsb' 5 2 = 0 ∧
    0x19 ≤ ((0x99 : Byte).extractLsb' 0 5).toNat ∧ ((0x98 : Byte).extractLsb' 0 5).toNat ∈ bufferedOps ∧
    (0x95 : Byte).getLsbD 7 = true ∧ ((0x95 : Byte).extractLsb' 0 5).toNat ∉ bufferedOps ∧
    ((0x96 : Byte).extractLsb' 0 5).toNat ∈ bufferedOps ∧
    decode [0x98] = .error .truncated ∧ decode [0x98, 0x30] = .ok (.writeByte true 0x30, []) := by decide

theorem witness_TruncatedStreamRejected :
    WellFormed (.write false [0x41, 0x42]) = true ∧ [0x02, 0x02, 0x41] <+: encode (.write false [0x41, 0x42]) ∧
    ([0x02, 0x02, 0x41] : List Byte) ≠ [] ∧ [0x02, 0x02, 0x41] ≠ encode (.write false [0x41, 0x42]) := by decide

theorem witness_StepRunsDecodedOperation :
    let s := fed live [0x05]
    s.cfg.WF ∧ decode s.port = .ok (.home, []) ∧ WellFormed .home = true ∧
      (∃ t, exec .home { s with port := [] } = .next t) :=
  ⟨by decide, by decide, by decide, next_of_runs (by decide)⟩

theorem witness_StepRunsDecodedOperation_fault :
    let s := fed tooManyRows [0x03, 0x08, 0x00]
    s.cfg.WF ∧ decode s.port = .ok (.setCursor false 8 0, []) ∧
      exec (.setCursor false 8 0) { s with port := [] } = .fault .noDisplayAddress :=
  ⟨by decide, by decide, fault_of (by decide)⟩

theorem witness_StepRunsDecodedOperation_uninitialised :
    let s := fed State.reset [0x05]
    s.cfg.WF ∧ decode s.port = .ok (.home, []) ∧ exec .home { s with port := [] } = .refused .uninitialised :=
  ⟨by decide, by decide, refused_of (by decide)⟩

theorem witness_StepChecksInOrder : ¬ illFormed.cfg.WF ∧ (live.cfg.WF ∧ live.port = []) ∧
    (live.cfg.WF ∧ (fed live [0x19]).port ≠ [] ∧ decode (fed live [0x19]).port = .error .reservedOp) := by and_intros <;> decide

theorem witness_UnadmittedOperationsRefused : ¬ illFormed.cfg.WF ∧
    State.reset.cfg.WF ∧ State.reset.initState ≠ .cleared ∧ ¬ IsInit .home :=
  ⟨by decide, by decide, by decide, nofun⟩

theorem witness_UninitialisedStepOnlyMarks :
    State.reset.cfg.WF ∧ State.reset.initState ≠ .cleared ∧ ¬ IsInit (.writeChar false 0x41) ∧
    decode (fed State.reset [0x01, 0x41]).port = .ok (.writeChar false 0x41, []) :=
  ⟨by decide, by decide, nofun, by decide⟩

theorem witness_UninitialisedStepOnlyMarks_kept :
    let s := { fed live [0x05] with containsRefusal := true }
    s.containsRefusal = true ∧ ∃ t, step s = .next t := ⟨rfl, next_of_runs (by decide)⟩

theorem witness_StepKeepsInvariant : let s := fed busy [0x83, 0x01, 0x03]
    s.Inv ∧ ∃ t, step s = .next t := ⟨by decide, next_of_runs (by decide)⟩

theorem witness_EveryOperationCompletes :
    (busy.Inv ∧ busy.initState = .cleared) ∧ (State.reset.Inv ∧ IsInit (.init 0x27 20 4)) :=
  ⟨by decide, by decide, _, _, _, rfl⟩

theorem witness_StepNeverFaults : (fed busy [0x03, 0xFF, 0xFF]).Inv ∧ State.reset.Inv := by and_intros <;> decide

theorem witness_FillNeverExceedsCapacity :
    let s := filled live 32
    s.cfg.WF ∧ s.fill ≤ s.cfg.cap ∧ ∃ t, runOps [.writeChar true 0x41, .showBuffer] s = .next t :=
  ⟨by decide, by decide, next_of_runs (by decide)⟩

theorem witness_InitLeavesFreshSession : State.reset.cfg.WF ∧ (withCap live 5).cfg.WF := by and_intros <;> decide

theorem witness_InitTrace : ((withCap live 18).cfg.WF ∧ 18 ≤ (withCap live 18).cfg.cap) ∧
    (busy.cfg.WF ∧ 18 ≤ busy.cfg.cap ∧ busy.initState = .cleared ∧ busy.buf ≠ []) := by and_intros <;> decide

theorem witness_SupersededBytesGoToOldAddress : busy.Ready ∧ busy.buf ≠ [] := by decide

theorem witness_ShowFlushes : (live.Ready ∧ live.buf = []) ∧ (busy.Ready ∧ busy.buf ≠ []) := by and_intros <;> decide

theorem witness_ShowFlushes_others : Instr.home ≠ .showBuffer ∧ ∃ t, exec .home busy = .next t :=
  ⟨nofun, next_of_runs (by decide)⟩

theorem witness_TransferNeverSplit : (filled live 28).Ready := by decide

theorem witness_SendPrimitivesTransfer : busy.Ready := by decide

theorem witness_WriteByteAppendsRaw : (filled live 32).Ready := by decide

theorem witness_ModeByteOnlyOnChange : live.Ready ∧
    (∃ c w, Instr.writeByte true 0x30 = .writeByte c w) ∧ Instr.showBuffer = .showBuffer :=
  ⟨by decide, ⟨_, _, rfl⟩, rfl⟩

theorem witness_ImplicitFlushIsNearlyFull :
    ((filled live 27).Ready ∧ (filled live 27).fill ≤ (filled live 27).cfg.cap) ∧
    ((filled live 28).Ready ∧ (filled live 28).fill ≤ (filled live 28).cfg.cap) ∧
    ((filled live 32).Ready ∧ (filled live 32).fill ≤ (filled live 32).cfg.cap) := by and_intros <;> decide

theorem witness_CharacterWrites : busy.Ready := by decide

theorem witness_WriteByteCount : (live.Ready ∧ live.lastMode ≠ some .data) ∧ (busy.Ready ∧ busy.lastMode = some .data) := by and_intros <;> decide

theorem witness_SetCursorSendsAddress : (live.Ready ∧ live.SessionLegal) ∧ (withCap live 5).Ready := by and_intros <;> decide

/-- Both ways to the stop, the largest target that does not stop, and the last line of the table. -/
theorem witness_SetCursorFaultsOutsideTable :
    (tooManyRows.Ready ∧ 4 ≤ min (4 : Byte).toNat (tooManyRows.rows - 1)) ∧
    (tooManyCols.Ready ∧ 0x7F < (tooManyCols.cfg.rowBase[min (3 : Byte).toNat (tooManyCols.rows - 1)]?.getD 0).toNat +
      min (44 : Byte).toNat (tooManyCols.cols - 1)) ∧
    runs (exec (.setCursor false 3 43) tooManyCols) = true ∧ runs (exec (.setCursor false 3 0) tooManyRows) = true := by and_intros <;> decide

theorem witness_ClearSendsAndWaits : busy.Ready := by decide

theorem witness_HomeSendsAndWaits : busy.Ready := by decide

theorem witness_CreateCharLoadsGlyph : (live.Ready ∧ live.lastMode = some .cmd) ∧
    (busy.Ready ∧ busy.lastMode ≠ some .cmd) := by and_intros <;> decide

theorem witness_DisplayTogglesReemit : live.Ready := by decide

theorem witness_EntryModeTogglesReemit : live.Ready := by decide

theorem witness_ScrollsSendShift : live.Ready := by decide

theorem witness_BacklightSendsOneByte : (filled live 32).Ready ∧ busy.Ready := by and_intros <;> decide

/-- Both sides of the room check: FILL = CAP - 5 and FILL = CAP - 4. -/
theorem witness_ToggleIsNeverElided :
    ((filled live 27).Ready ∧ (filled live 27).fill + 5 ≤ (filled live 27).cfg.cap) ∧
    ((filled live 28).Ready ∧ ¬ (filled live 28).fill + 5 ≤ (filled live 28).cfg.cap) ∧
    .scrollLeft ∈ displayToggles ++ entryToggles ++ scrolls := by and_intros <;> decide

theorem witness_OnlyInitWritesGeometry : (∃ t, exec .blink busy = .next t) ∧ ¬ IsInit .blink :=
  ⟨next_of_runs (by decide), nofun⟩

theorem witness_FlagRegistersFrame : (∃ t, exec .home busy = .next t) ∧ ¬ IsInit .home ∧
    .home ∉ displayToggles ∧ .home ∉ entryToggles ∧ Instr.home ≠ .backlight ∧ Instr.home ≠ .noBacklight :=
  ⟨next_of_runs (by decide), nofun, by decide, by decide, nofun, nofun⟩

theorem witness_TrackerAfterOperation : (∃ t, exec (.write false []) busy = .next t) ∧
    (∃ t, exec (.init 0x27 20 4) busy = .next t) := ⟨next_of_runs (by decide), next_of_runs (by decide)⟩

theorem witness_EnvironmentFrame : (∃ t, exec .showBuffer busy = .next t) ∧ (∃ t, exec .clear busy = .next t) :=
  ⟨next_of_runs (by decide), next_of_runs (by decide)⟩

theorem witness_StepOnlyAppends : ∃ t, step (fed busy [0x15]) = .next t := next_of_runs (by decide)

theorem witness_BufferIsAppendOnly : ∃ t, exec (.writeChar true 0x42) busy = .next t ∧ decide (t.out = busy.out) = true :=
  next_of_view (p := fun t => decide (t.out = busy.out)) (by decide)

theorem witness_BlockWritesGoToAddr : busy.fill ≤ busy.cfg.cap ∧
    ∃ t, exec .home busy = .next t ∧ decide (t.out.drop busy.out.length =
      [.bw 0x27 (busy.buf ++ [0x00, 0x04, 0x00, 0x24, 0x20]), .dly 2000]) = true :=
  ⟨by decide, next_of_view (p := fun t => decide (t.out.drop busy.out.length =
      [.bw 0x27 (busy.buf ++ [0x00, 0x04, 0x00, 0x24, 0x20]), .dly 2000])) (by decide)⟩

theorem witness_DelaysOnlyFromInitClearHome : ∃ t, exec .home busy = .next t := next_of_runs (by decide)

theorem witness_EmittedControlBits : (∃ t, exec .home busy = .next t) ∧ NothingToLose busy ∧ NothingToLose State.reset ∧
    ∀ b v, Instr.home ≠ .writeByte b v := ⟨next_of_runs (by decide), .inl rfl, .inr rfl, nofun⟩

theorem witness_WireRefinesLogicalBytes : (busy.Inv ∧ busy.initState = .cleared) ∧
    (State.reset.Inv ∧ IsInit (.init 0x27 20 4) ∧ State.reset.buf = []) :=
  ⟨by decide, by decide, ⟨_, _, _, rfl⟩, rfl⟩

/-- Different capacities and different buffering operands. -/
theorem witness_StreamIndependentOfCutting :
    [Instr.writeChar true 0x41, .clear].map dropB = [Instr.writeChar false 0x41, .clear].map dropB ∧
    busy.cfg.WF ∧ (withCap busy 8).cfg.WF ∧ NothingToLose busy ∧ NothingToLose (withCap busy 8) ∧
    Alike busy (withCap busy 8) ∧ (∃ t, runOps [.writeChar true 0x41, .clear] busy = .next t) ∧
    (∃ t, runOps [.writeChar false 0x41, .clear] (withCap busy 8) = .next t) :=
  ⟨by decide, by decide, by decide, .inl rfl, .inl rfl, ⟨rfl, rfl, rfl, rfl, rfl, rfl, rfl, rfl, rfl, rfl, rfl⟩,
    next_of_runs (by decide), next_of_runs (by decide)⟩

theorem witness_TransfersFollowWithoutWait : (filled live 28).Ready := by decide

end Sys2Proof.Tests
end

section
/-! PROOF. A step on a port that holds an operation (00_scope R8, 60_exceptions R195). -/

namespace Sys2Proof.Machine

@[simp] theorem settle_of_next (s t : State) : settle s (.next t) = .next t := rfl

@[simp] theorem settle_of_fault (s : State) (f : Fault) : settle s (.fault f) = .fault f := rfl

@[simp] theorem settle_of_uninitialised (s : State) :
    settle s (.refused .uninitialised) = .next { s with containsRefusal := true } := rfl

/-- The whole step where an operation waits: both checks before it (R196) have passed, so only `settle` stands between
the operation's answer and the step's. -/
theorem step_of_decode {s : State} {i : Instr} {rest : List Byte} (hwf : s.cfg.WF)
    (hdec : decode s.port = .ok (i, rest)) :
    step s = settle (s.withPort rest) (exec i (s.withPort rest)) := by
  unfold step
  rw [State.built_of_wf hwf]
  simp only [fetch_of_decode hdec]

/-- Settles O6: `step_of_decode`, with one equation of `settle` for each of the three answers. That the operation is
well formed is not needed. -/
theorem stepRunsDecodedOperation : Obligations.StepRunsDecodedOperation := by
  intro s i rest hwf hdec _
  have hstep : step s = settle (s.withPort rest) (exec i (s.withPort rest)) := step_of_decode hwf hdec
  refine ⟨fun t hexec => ?next, fun f hexec => ?fault, fun hexec => ?uninitialised⟩
  case next => rw [hstep, State.withPort, hexec, settle_of_next]
  case fault => rw [hstep, State.withPort, hexec, settle_of_fault]
  case uninitialised => rw [hstep, State.withPort, hexec, settle_of_uninitialised]

end Sys2Proof.Machine
end

section
/-! PROOF. What an operation writes of the registers, in one closed form: CFG, the Session, the results, the port and the
mark after it, with only the pending bytes and OUT left to the traffic laws below (10_state R13 to R21, R25). -/

namespace Sys2Proof.Machine

open Sys2Proof.Claims

/-- DCTL after an operation other than INIT (43_feature_toggles R141 to R146). -/
def dctlAfter (dctl : Byte) : Instr → Byte
  | .display => dctl ||| 0x04
  | .noDisplay => dctl &&& 0xFB
  | .cursor => dctl ||| 0x02
  | .noCursor => dctl &&& 0xFD
  | .blink => dctl ||| 0x01
  | .noBlink => dctl &&& 0xFE
  | _ => dctl

/-- EMODE after an operation other than INIT (43_feature_toggles R147 to R150). -/
def emodeAfter (emode : Byte) : Instr → Byte
  | .autoscroll => emode ||| 0x01
  | .noAutoscroll => emode &&& 0xFE
  | .leftToRight => emode ||| 0x02
  | .rightToLeft => emode &&& 0xFD
  | _ => emode

/-- BL after an operation other than INIT (43_feature_toggles R153, R154). -/
def blAfter (bl : Bool) : Instr → Bool
  | .backlight => true
  | .noBacklight => false
  | _ => bl

/-- The results after an operation (10_state R25). -/
def resultsAfter (s : State) : Instr → List Nat
  | .showBuffer => s.results ++ [s.fill]
  | _ => s.results

/-- `s` with every register an operation other than INIT can write at its value after the operation, and with the given
pending bytes and OUT. -/
def State.registersAfter (s : State) (i : Instr) (buf : List Byte) (out : List Event) : State :=
  { s with
    bl := blAfter s.bl i
    dctl := dctlAfter s.dctl i
    emode := emodeAfter s.emode i
    lastMode := trackerAfter s.lastMode i
    results := resultsAfter s i
    buf := buf
    out := out }

/-- DATA transfers write LASTMODE, the pending bytes and OUT, and nothing else. -/
theorem State.afterData_eq (s : State) (data : List Byte) :
    s.afterData data = { s with
      lastMode := if data = [] then s.lastMode else some .data
      buf := (s.afterData data).buf
      out := (s.afterData data).out } := by
  ext1 <;> simp [State.afterData_lastMode]

/-- An operation other than INIT writes the registers of `registersAfter` and no other. -/
theorem Leaves.eq_registersAfter {s t : State} {i : Instr} (h : Leaves s t i) :
    t = s.registersAfter i t.buf t.out := by
  cases i with
  | init a c r => exact h.elim
  | write b data =>
    subst h
    rw [State.afterData_eq]
    cases b <;> rfl
  | setCursor b line position =>
    obtain ⟨a, -, rfl⟩ := h
    rfl
  | createChar slot g =>
    subst h
    rw [State.afterData_eq]
    rfl
  | _ => subst h; rfl

theorem ne_init_of_not_isInit {i : Instr} (h : ¬ IsInit i) : ∀ a c r, i ≠ .init a c r :=
  fun a c r hi => h ⟨a, c, r, hi⟩

/-- The registers after an operation other than INIT. -/
theorem exec_eq_registersAfter {i : Instr} {s t : State} (hi : ¬ IsInit i) (h : exec i s = .next t) :
    t = s.registersAfter i t.buf t.out :=
  (leaves_of_exec (ne_init_of_not_isInit hi) h).2.eq_registersAfter

/-- The supersession flush writes the pending bytes and OUT alone, and the register reset drops the pending bytes. -/
theorem State.resetSession_supersede (s : State) (a c r : Byte) :
    s.supersede.resetSession a c r = { s.resetSession a c r with out := s.supersede.out } := by
  rw [State.supersede_eq]
  split <;> rfl

/-- What INIT runs under a well-formed CFG (44_init R170). -/
theorem exec_init_next {a c r : Byte} {s t : State} (h : exec (.init a c r) s = .next t) :
    s.cfg.WF ∧ t = (s.supersede.resetSession a c r).powerOnSequence := by
  rw [exec_init] at h
  obtain ⟨hwf, hrun⟩ := State.built_next h
  exact ⟨hwf, (Host.Outcome.next.inj hrun).symm⟩

/-- INIT leaves the Session of its operands and the reset values, and writes nothing else but OUT (44_init R172). -/
theorem exec_init_eq_initialised {a c r : Byte} {s t : State} (h : exec (.init a c r) s = .next t) :
    t = { initialised s a c r with out := t.out } := by
  obtain ⟨hwf, rfl⟩ := exec_init_next h
  rw [State.powerOnSequence_eq _ (by simpa using hwf.1) rfl, State.resetSession_supersede]
  rfl

/-- Settles O37: none of the five registers is among those of `registersAfter`. -/
theorem onlyInitWritesGeometry : Obligations.OnlyInitWritesGeometry := by
  intro i s t h hi
  rw [exec_eq_registersAfter hi h]
  exact ⟨rfl, rfl, rfl, rfl, rfl⟩

theorem dctlAfter_of_not_toggle (dctl : Byte) {i : Instr} (h : i ∉ displayToggles) : dctlAfter dctl i = dctl := by
  cases i with
  | display | noDisplay | cursor | noCursor | blink | noBlink => exact absurd (by decide) h
  | _ => rfl

theorem emodeAfter_of_not_toggle (emode : Byte) {i : Instr} (h : i ∉ entryToggles) : emodeAfter emode i = emode := by
  cases i with
  | autoscroll | noAutoscroll | leftToRight | rightToLeft => exact absurd (by decide) h
  | _ => rfl

theorem blAfter_of_not_backlight (bl : Bool) {i : Instr} (hon : i ≠ .backlight) (hoff : i ≠ .noBacklight) :
    blAfter bl i = bl := by
  cases i with
  | backlight => exact absurd rfl hon
  | noBacklight => exact absurd rfl hoff
  | _ => rfl

/-- Settles O38: each flag register of `registersAfter` is a function that only its own operations move. -/
theorem flagRegistersFrame : Obligations.FlagRegistersFrame := by
  intro i s t h hi
  rw [exec_eq_registersAfter hi h]
  exact ⟨dctlAfter_of_not_toggle s.dctl, emodeAfter_of_not_toggle s.emode, blAfter_of_not_backlight s.bl⟩

/-- Settles O39: LASTMODE of `registersAfter`, and of the Session INIT leaves. -/
theorem trackerAfterOperation : Obligations.TrackerAfterOperation := by
  intro i s t h
  by_cases hi : IsInit i
  · obtain ⟨a, c, r, rfl⟩ := hi
    rw [exec_init_eq_initialised h]
    rfl
  · rw [exec_eq_registersAfter hi h]
    rfl

theorem resultsAfter_eq (s : State) (i : Instr) :
    resultsAfter s i = s.results ++ (if i = .showBuffer then [s.fill] else []) := by
  cases i with
  | showBuffer => rfl
  | _ => exact (List.append_nil _).symm

/-- Settles O40: `registersAfter` and INIT's Session keep CFG, the port and the mark; INIT is not SHOW. -/
theorem environmentFrame : Obligations.EnvironmentFrame := by
  intro i s t h
  rw [← resultsAfter_eq]
  by_cases hi : IsInit i
  · obtain ⟨a, c, r, rfl⟩ := hi
    rw [exec_init_eq_initialised h]
    exact ⟨rfl, rfl, rfl, rfl⟩
  · rw [exec_eq_registersAfter hi h]
    exact ⟨rfl, rfl, rfl, rfl⟩

end Sys2Proof.Machine
end

section
/-! PROOF. The traffic laws: what an operation does to the pending bytes and to OUT (10_state R22, R24,
40_encoder_primitives R98). -/

namespace Sys2Proof.Machine

open Sys2Proof.Claims

/-- From `s` to `t` the encoder emitted: CFG stays and OUT only grows; and where FILL was at most CAP it is so again, and
every event that was added is legal. -/
structure State.Emits (s t : State) : Prop where
  cfg_eq : t.cfg = s.cfg
  out_grows : s.out <+: t.out
  fill_le : s.fill ≤ s.cfg.cap → t.fill ≤ t.cfg.cap
  legal : s.fill ≤ s.cfg.cap → ∀ e ∈ t.out, e ∈ s.out ∨ e.legal s.cfg.cap = true

theorem State.Emits.trans {s t u : State} (hst : s.Emits t) (htu : t.Emits u) : s.Emits u where
  cfg_eq := htu.cfg_eq.trans hst.cfg_eq
  out_grows := hst.out_grows.trans htu.out_grows
  fill_le := fun h => htu.fill_le (hst.fill_le h)
  legal := fun h e he => (htu.legal (hst.fill_le h) e he).elim (hst.legal h e) fun hl => .inr (hst.cfg_eq ▸ hl)

/-- What appends legal events to OUT and keeps the bound on FILL emits. -/
theorem State.emits_of_out_eq {s t : State} {es : List Event} (hcfg : t.cfg = s.cfg) (hout : t.out = s.out ++ es)
    (hfill : s.fill ≤ s.cfg.cap → t.fill ≤ s.cfg.cap)
    (hes : s.fill ≤ s.cfg.cap → ∀ e ∈ es, e.legal s.cfg.cap = true) : s.Emits t where
  cfg_eq := hcfg
  out_grows := ⟨es, hout.symm⟩
  fill_le := fun h => hcfg ▸ hfill h
  legal := fun h e he => (List.mem_append.mp (hout ▸ he)).imp_right (hes h e)

/-- Writing registers other than CFG, and dropping pending bytes, emits nothing. -/
theorem State.emits_of_silent {s t : State} (hcfg : t.cfg = s.cfg) (hout : t.out = s.out) (hfill : t.fill ≤ s.fill) :
    s.Emits t :=
  State.emits_of_out_eq (es := []) hcfg (by simpa using hout) hfill.trans (by simp)

/-- Writing the flag registers emits nothing. -/
theorem State.emits_flags (s : State) (bl : Bool) (dctl emode : Byte) :
    s.Emits { s with bl := bl, dctl := dctl, emode := emode } :=
  State.emits_of_silent rfl rfl le_rfl

theorem State.Emits.refl (s : State) : s.Emits s := State.emits_of_silent rfl rfl le_rfl

/-- A unit's block writes are appended to OUT, whatever FILL was. -/
theorem State.out_grows_afterBytes (s : State) (room : Nat) (bytes : List Byte) (buf : Bool) :
    s.out <+: (s.afterBytes room bytes buf).out := by
  by_cases h : s.fill + room ≤ s.cfg.cap <;> cases buf <;> simp [State.afterBytes, h]

/-- One unit no longer than its room. -/
theorem State.emits_afterBytes (s : State) {room : Nat} {bytes : List Byte} (buf : Bool)
    (hroom : room ≤ s.cfg.cap) (hlen : bytes.length ≤ room) (hne : bytes ≠ []) :
    s.Emits (s.afterBytes room bytes buf) where
  cfg_eq := rfl
  out_grows := s.out_grows_afterBytes room bytes buf
  fill_le := fun _ => s.afterBytes_fill_le room bytes buf hroom hlen
  legal := fun hfill e he => by
    obtain ⟨es, hout, hes⟩ := s.afterBytes_out room bytes buf hfill hroom hlen hne
    rw [hout] at he
    refine (List.mem_append.mp he).imp_right fun hmem => ?_
    obtain ⟨bs, rfl, hpos, hcap⟩ := hes e hmem
    exact decide_eq_true ⟨hpos, hcap⟩

theorem State.emits_afterShow (s : State) : s.Emits s.afterShow := by
  refine State.emits_of_out_eq rfl rfl (fun _ => Nat.zero_le _) fun hfill e he => ?_
  by_cases hbuf : s.buf = []
  · simp [hbuf] at he
  · rw [if_neg hbuf, List.mem_singleton] at he
    subst he
    exact decide_eq_true ⟨List.length_pos_iff.mpr hbuf, hfill⟩

namespace State.Emits

variable {s t : State}

theorem afterTransfer (h : s.Emits t) (hcap : 5 ≤ s.cfg.cap) (v : Byte) (m : Mode) (buf : Bool) :
    s.Emits (t.afterTransfer v m buf) := by
  have hlen : (logicalTransfer t.cfg t.bl t.lastMode v m).length ≤ 5 := by
    rw [logicalTransfer_length]
    split <;> decide
  have hunit := t.emits_afterBytes buf (h.cfg_eq ▸ hcap) hlen (logicalTransfer_ne_nil _ _ _ _ _)
  exact (h.trans hunit).trans (emits_of_silent rfl rfl le_rfl)

theorem afterData (h : s.Emits t) (hcap : 5 ≤ s.cfg.cap) (data : List Byte) : s.Emits (t.afterData data) := by
  induction data generalizing t with
  | nil => exact h
  | cons d rest ih => exact ih (h.afterTransfer hcap d .data true)

theorem afterShow (h : s.Emits t) : s.Emits t.afterShow := h.trans t.emits_afterShow

theorem afterDelay (h : s.Emits t) (us : Nat) : s.Emits (t.afterDelay us) :=
  h.trans (emits_of_out_eq rfl rfl id fun _ e he => by rw [List.mem_singleton.mp he]; rfl)

theorem afterByte (h : s.Emits t) (hcap : 5 ≤ s.cfg.cap) (x : Byte) (buf : Bool) :
    s.Emits (t.afterBytes 1 [x] buf) :=
  h.trans (t.emits_afterBytes buf (by rw [h.cfg_eq]; omega) le_rfl (by simp))

theorem enter (h : s.Emits t) (i : InitState) : s.Emits (t.enter i) := h.trans (emits_of_silent rfl rfl le_rfl)

theorem deliver (h : s.Emits t) (n : Nat) : s.Emits (t.deliver n) := h.trans (emits_of_silent rfl rfl le_rfl)

end State.Emits

/-- Every operation other than INIT is a chain of transfers, raw bytes, flushes, delays and register writes. -/
theorem Leaves.emits {s t : State} {i : Instr} (h : Leaves s t i) (hcap : 5 ≤ s.cfg.cap) : s.Emits t := by
  have hs := State.Emits.refl s
  cases i with
  | init => exact h.elim
  | writeChar | sendCmd | sendData | scrollLeft | scrollRight =>
    subst h
    exact hs.afterTransfer hcap _ _ _
  | display | noDisplay | cursor | noCursor | blink | noBlink | autoscroll | noAutoscroll | leftToRight | rightToLeft =>
    subst h
    exact (s.emits_flags _ _ _).afterTransfer hcap _ _ _
  | backlight | noBacklight =>
    subst h
    exact (s.emits_flags _ _ _).afterByte hcap _ _
  | clear | home =>
    subst h
    exact (hs.afterTransfer hcap _ _ _).afterDelay _
  | write b data =>
    subst h
    cases b
    · exact (hs.afterData hcap data).afterShow
    · exact hs.afterData hcap data
  | setCursor =>
    obtain ⟨a, -, rfl⟩ := h
    exact hs.afterTransfer hcap _ _ _
  | createChar =>
    subst h
    exact ((hs.afterTransfer hcap _ _ _).afterData hcap _).afterTransfer hcap _ _ _
  | showBuffer =>
    subst h
    exact hs.afterShow.deliver _
  | writeByte =>
    subst h
    exact hs.afterByte hcap _ _

/-- The synchronisation events are two-byte block writes and delays. -/
theorem State.emits_syncEvents (s : State) (hcap : 5 ≤ s.cfg.cap) :
    s.Emits { s with out := s.out ++ s.syncEvents } := by
  have hpair : 2 ≤ s.cfg.cap := by omega
  exact State.emits_of_out_eq rfl rfl id fun _ => by simp [State.syncEvents, Event.legal, hpair]

/-- The power-on sequence: the synchronisation events, four transfers and the delay. -/
theorem State.emits_powerOnSequence (s : State) (hcap : 5 ≤ s.cfg.cap) (hbuf : s.buf = []) :
    s.Emits s.powerOnSequence := by
  rw [State.powerOnSequence_eq s hcap hbuf]
  exact ((((((s.emits_syncEvents hcap).afterTransfer hcap _ _ _).afterTransfer hcap _ _ _).afterTransfer
    hcap _ _ _).afterTransfer hcap _ _ _).afterDelay _).enter _

theorem State.emits_supersede (s : State) : s.Emits s.supersede := by
  rw [State.supersede_eq]
  split
  · exact s.emits_afterShow
  · exact .refl s

/-- INIT: the supersession flush, the register reset and the power-on sequence. -/
theorem emits_of_exec_init {a c r : Byte} {s t : State} (h : exec (.init a c r) s = .next t) : s.Emits t := by
  obtain ⟨hwf, rfl⟩ := exec_init_next h
  have hreset : s.supersede.Emits (s.supersede.resetSession a c r) := State.emits_of_silent rfl rfl (Nat.zero_le _)
  exact (s.emits_supersede.trans hreset).trans (State.emits_powerOnSequence _ (by simpa using hwf.1) rfl)

/-- Every operation that completes, INIT among them, emits. -/
theorem emits_of_exec {i : Instr} {s t : State} (h : exec i s = .next t) : s.Emits t := by
  by_cases hi : IsInit i
  · obtain ⟨a, c, r, rfl⟩ := hi
    exact emits_of_exec_init h
  · obtain ⟨⟨⟨hcap, -⟩, -⟩, hleaves⟩ := leaves_of_exec (ne_init_of_not_isInit hi) h
    exact hleaves.emits hcap

/-- A completed run of one operation and more: the first completes, and the rest complete from its next state. -/
theorem runOps_cons_next {i : Instr} {rest : List Instr} {s u : State} (h : runOps (i :: rest) s = .next u) :
    ∃ t, exec i s = .next t ∧ runOps rest t = .next u := by
  rw [runOps] at h
  split at h
  · exact ⟨_, ‹_›, h⟩
  · cases h
  · cases h

theorem emits_of_runOps {ops : List Instr} {s t : State} (h : runOps ops s = .next t) : s.Emits t := by
  induction ops generalizing s with
  | nil =>
    cases h
    exact .refl _
  | cons i rest ih =>
    obtain ⟨u, hexec, hrest⟩ := runOps_cons_next h
    exact (emits_of_exec hexec).trans (ih hrest)

/-- Settles O14: a completed run emits, and what emits keeps the bound. -/
theorem fillNeverExceedsCapacity : Obligations.FillNeverExceedsCapacity :=
  fun _ _ _ _ hfill hrun => (emits_of_runOps hrun).fill_le hfill

end Sys2Proof.Machine
end

section
/-! PROOF. The decoder takes bytes from the front of the port alone (30_encoding R71, R73), and a step only appends
(10_state R24, R25). -/

namespace Sys2Proof

/-- What the answer leaves on the port is a tail of `bytes`. -/
def LeavesSuffix (bytes : List Byte) (d : Decoded) : Prop := ∀ i rest, d = .ok (i, rest) → rest <:+ bytes

@[simp] theorem leavesSuffix_error (bytes : List Byte) (why : Reject) : LeavesSuffix bytes (.error why) := nofun

theorem leavesSuffix_ok {bytes rest : List Byte} (i : Instr) (h : rest <:+ bytes) :
    LeavesSuffix bytes (.ok (i, rest)) := by
  rintro _ _ ⟨⟩
  exact h

@[simp] theorem leavesSuffix_unbuffered {bytes : List Byte} (b : Bool) {d : Decoded} (h : LeavesSuffix bytes d) :
    LeavesSuffix bytes (unbuffered b d) := by
  cases b
  · exact h
  · exact leavesSuffix_error bytes _

@[simp] theorem leavesSuffix_operandsN (i : Instr) (bytes : List Byte) : LeavesSuffix bytes (operandsN i bytes) :=
  leavesSuffix_ok i (List.suffix_refl bytes)

@[simp] theorem leavesSuffix_operandsV (f : Byte → Instr) (bytes : List Byte) :
    LeavesSuffix bytes (operandsV f bytes) := by
  unfold operandsV
  split
  · exact leavesSuffix_ok _ (List.suffix_append [_] _)
  · exact leavesSuffix_error _ _

@[simp] theorem leavesSuffix_operandsP (f : Byte → Byte → Instr) (bytes : List Byte) :
    LeavesSuffix bytes (operandsP f bytes) := by
  unfold operandsP
  split
  · exact leavesSuffix_ok _ (List.suffix_append [_, _] _)
  all_goals exact leavesSuffix_error _ _

@[simp] theorem leavesSuffix_operandsI (f : Byte → Byte → Byte → Instr) (bytes : List Byte) :
    LeavesSuffix bytes (operandsI f bytes) := by
  unfold operandsI
  split
  · exact leavesSuffix_ok _ (List.suffix_append [_, _, _] _)
  all_goals exact leavesSuffix_error _ _

@[simp] theorem leavesSuffix_operandsG (f : Byte → Glyph → Instr) (bytes : List Byte) :
    LeavesSuffix bytes (operandsG f bytes) := by
  unfold operandsG
  split
  · exact leavesSuffix_ok _ (List.suffix_append [_, _, _, _, _, _, _, _, _] _)
  · exact leavesSuffix_error _ _

@[simp] theorem leavesSuffix_operandsS (f : List Byte → Instr) (bytes : List Byte) :
    LeavesSuffix bytes (operandsS f bytes) := by
  unfold operandsS
  split
  · split
    · exact leavesSuffix_ok _ ((List.drop_suffix _ _).trans (List.suffix_cons _ _))
    · exact leavesSuffix_error _ _
  · exact leavesSuffix_error _ _

/-- Every row of the operation map reads its operands by one of the formats. -/
theorem leavesSuffix_decodeOp (op : Nat) (b : Bool) (bytes : List Byte) : LeavesSuffix bytes (decodeOp op b bytes) := by
  unfold decodeOp
  split <;> simp

/-- The bytes after a decoded operation are a tail of the bytes it was read from. -/
theorem suffix_of_decode {bytes rest : List Byte} {i : Instr} (h : decode bytes = .ok (i, rest)) : rest <:+ bytes := by
  cases bytes with
  | nil => cases h
  | cons head operands =>
    rw [decode] at h
    split at h
    · exact (leavesSuffix_decodeOp _ _ _ _ _ h).trans (List.suffix_cons _ _)
    · cases h

end Sys2Proof

namespace Sys2Proof.Machine

open Sys2Proof.Claims

/-- Settles O41: an idle step changes nothing; an operation emits and keeps the environment frame; a step that only marks
takes the operation's bytes from the port. In both of the latter the decoder leaves a tail of the port. -/
theorem stepOnlyAppends : Obligations.StepOnlyAppends := by
  intro s t h
  obtain ⟨-, ⟨-, rfl⟩ | ⟨i, rest, hdec, hexec | ⟨-, rfl⟩⟩⟩ := step_next h
  case inl => exact ⟨⟨[], by simp⟩, ⟨[], by simp⟩, ⟨[], by simp⟩, rfl⟩
  case inr.inl =>
    obtain ⟨hcfg, hport, -, hresults⟩ := environmentFrame i _ t hexec
    obtain ⟨es, hout⟩ := (emits_of_exec hexec).out_grows
    obtain ⟨used, hused⟩ := suffix_of_decode hdec
    exact ⟨⟨es, hout.symm⟩, ⟨_, hresults⟩, ⟨used, by rw [hport]; exact hused.symm⟩, hcfg⟩
  case inr.inr =>
    obtain ⟨used, hused⟩ := suffix_of_decode hdec
    exact ⟨⟨[], by simp⟩, ⟨[], by simp⟩, ⟨used, hused.symm⟩, rfl⟩

end Sys2Proof.Machine
end

section
/-! PROOF. The invariant: it holds at power-on, and every step keeps it (10_state R13 to R25, R28). -/

namespace Sys2Proof.Machine

open Sys2Proof.Claims

/-! ### A legal Session after an operation -/

/-- Setting bits outside a mask that reads 0 leaves it 0. -/
theorem or_and_eq_zero {reg bit mask : Byte} (hreg : reg &&& mask = 0) (hbit : bit &&& mask = 0) :
    (reg ||| bit) &&& mask = 0 := by
  rw [BitVec.and_or_distrib_right, hreg, hbit]
  rfl

/-- Clearing bits leaves a mask that reads 0 at 0. -/
theorem and_and_eq_zero {reg mask : Byte} (keep : Byte) (hreg : reg &&& mask = 0) : (reg &&& keep) &&& mask = 0 := by
  rw [BitVec.and_assoc, BitVec.and_comm keep, ← BitVec.and_assoc, hreg]
  exact BitVec.zero_and

/-- The toggles keep DCTL's reserved bits 0 (10_state R17). -/
theorem dctlAfter_reserved {dctl : Byte} (h : dctl &&& 0xF8 = 0) (i : Instr) : dctlAfter dctl i &&& 0xF8 = 0 := by
  cases i with
  | display | cursor | blink => exact or_and_eq_zero h (by decide)
  | noDisplay | noCursor | noBlink => exact and_and_eq_zero _ h
  | _ => exact h

/-- The toggles keep EMODE's reserved bits 0 (10_state R18). -/
theorem emodeAfter_reserved {emode : Byte} (h : emode &&& 0xFC = 0) (i : Instr) :
    emodeAfter emode i &&& 0xFC = 0 := by
  cases i with
  | autoscroll | leftToRight => exact or_and_eq_zero h (by decide)
  | noAutoscroll | rightToLeft => exact and_and_eq_zero _ h
  | _ => exact h

/-- Once a mode was selected, no operation takes LASTMODE back to NONE (10_state R20). -/
theorem trackerAfter_ne_none {last : Option Mode} (h : last ≠ none) (i : Instr) : trackerAfter last i ≠ none := by
  cases i with
  | write b data =>
    rw [trackerAfter]
    split
    · exact h
    · nofun
  | backlight | noBacklight | showBuffer | writeByte => exact h
  | _ => nofun

/-- An operation other than INIT keeps a legal Session legal. -/
theorem State.SessionLegal.registersAfter {s : State} (h : s.SessionLegal) (i : Instr) (buf : List Byte)
    (out : List Event) : (s.registersAfter i buf out).SessionLegal := by
  obtain ⟨hrows, hcols, hdctl, hemode, hfset, hlast⟩ := h
  exact ⟨hrows, hcols, dctlAfter_reserved hdctl i, emodeAfter_reserved hemode i, hfset, trackerAfter_ne_none hlast i⟩

/-- Clamped geometry is in range (10_state R15). -/
theorem geometry_bounds (v : Byte) {most : Nat} (h : 1 ≤ most) : 1 ≤ geometry v most ∧ geometry v most ≤ most :=
  ⟨le_min (le_max_right _ _) h, min_le_right _ _⟩

/-- The Session INIT leaves is legal where CFG is well formed with clean flag resets. -/
theorem sessionLegal_initialised {s : State} (hwf : s.cfg.WF) (hclean : FlagResetsClean s.cfg) (a c r : Byte)
    (out : List Event) : ({ initialised s a c r with out := out } : State).SessionLegal := by
  obtain ⟨-, -, ⟨hrows, -⟩, hcols, -⟩ := hwf
  obtain ⟨hdctl, hemode⟩ := hclean
  exact ⟨geometry_bounds r hrows, geometry_bounds c hcols, hdctl, hemode, rfl, nofun⟩

/-- Every operation that completes leaves a cleared, legal Session. -/
theorem exec_cleared_legal {i : Instr} {s t : State} (hs : s.Inv) (h : exec i s = .next t) :
    t.initState = .cleared ∧ t.SessionLegal := by
  obtain ⟨hwf, hclean, -, -, -, -, hlegal⟩ := hs
  by_cases hi : IsInit i
  · obtain ⟨a, c, r, rfl⟩ := hi
    rw [exec_init_eq_initialised h]
    exact ⟨rfl, sessionLegal_initialised hwf hclean a c r _⟩
  · obtain ⟨-, hcleared⟩ := ready_of_exec_next (ne_init_of_not_isInit hi) h
    rw [exec_eq_registersAfter hi h]
    exact ⟨hcleared, (hlegal hcleared).registersAfter i _ _⟩

/-! ### The invariant -/

/-- Every operation that completes keeps the invariant. -/
theorem exec_keeps_inv {i : Instr} {s t : State} (hs : s.Inv) (h : exec i s = .next t) : t.Inv := by
  obtain ⟨hcleared, hsession⟩ := exec_cleared_legal hs h
  obtain ⟨hwf, hclean, hfill, hout, hresults, -, -⟩ := hs
  have hemits := emits_of_exec h
  obtain ⟨hcfg, -, -, hres⟩ := environmentFrame i s t h
  refine ⟨hcfg ▸ hwf, hcfg ▸ hclean, hemits.fill_le hfill, ?out, ?results, .inr hcleared, fun _ => hsession⟩
  case out =>
    intro e he
    rw [hcfg]
    exact (hemits.legal hfill e he).elim (hout e) id
  case results =>
    intro n hn
    rw [hcfg]
    rw [hres, List.mem_append] at hn
    rcases hn with hold | hnew
    · exact hresults n hold
    · split at hnew
      · exact List.mem_singleton.mp hnew ▸ hfill
      · cases hnew

/-- Settles O11: an idle step changes nothing, an operation keeps the invariant, and the invariant reads neither the port
nor the mark. -/
theorem stepKeepsInvariant : Obligations.StepKeepsInvariant := by
  intro s t hs h
  obtain ⟨-, ⟨-, rfl⟩ | ⟨i, rest, -, hexec | ⟨-, rfl⟩⟩⟩ := step_next h
  case inl => exact hs
  case inr.inl =>
    have hport : (s.withPort rest).Inv := hs
    exact exec_keeps_inv hport hexec
  case inr.inr => exact hs

/-- Settles O10: CFG0 is well formed with clean flag resets, and the rest of the invariant is empty before INIT. -/
theorem powerOnMeetsInvariant : Obligations.PowerOnMeetsInvariant := by
  have hwf : Config.cfg0.WF := by decide
  have hclean : FlagResetsClean Config.cfg0 := by decide
  exact ⟨rfl, rfl, rfl, hwf, hclean, Nat.zero_le _, nofun, nofun, .inl rfl, nofun⟩

end Sys2Proof.Machine
end

section
/-! PROOF. The wire law: what every operation that completes adds to the stream of bytes, addresses and delays, in one
equation; and that an admitted operation completes (20_memory R51, 30_encoding R66, 40_encoder_primitives R97). -/

namespace Sys2Proof.Machine

open Sys2Proof.Claims

/-! ### The command bytes of the meanings and of the statements agree -/

/-- Where SETCURSOR has a target, its command byte is `C_SETDDRAM | (ROWBASE[line] + position)` (41_text_cursor R113). -/
theorem setDdramCommand_of_ddramAddress {c : Config} {line position : Nat} {a : BitVec 7}
    (h : ddramAddress c line position = some a) :
    setDdramCommand c a = c.cSetDdram ||| cursorTarget c line position := by
  unfold ddramAddress at h
  split at h
  · rename_i base hbase
    split at h
    · rename_i hle
      cases h
      have hwide : (BitVec.ofNat 7 (base.toNat + position)).setWidth 8 = BitVec.ofNat 8 (base.toNat + position) := by
        apply BitVec.eq_of_toNat_eq
        simp only [BitVec.toNat_setWidth, BitVec.toNat_ofNat]
        omega
      rw [setDdramCommand, cursorTarget, hbase, hwide, Option.getD_some]
    · cases h
  · cases h

/-- The CGRAM-select byte: a shift by 3 is a product with 8 (42_glyphs R131). -/
theorem setCgramCommand_eq_glyphCommand (c : Config) (slot : Byte) : setCgramCommand c slot = glyphCommand c slot := by
  have hshift : clampSlot c slot <<< 3 = BitVec.ofNat 8 (min slot.toNat c.maxSlot * 8) := by
    apply BitVec.eq_of_toNat_eq
    simp only [clampSlot, BitVec.toNat_shiftLeft, BitVec.toNat_ofNat, Nat.shiftLeft_eq]
    omega
  rw [setCgramCommand, glyphCommand, hshift]

/-! ### Operations other than INIT -/

/-- What `wireOf` lists for an operation other than INIT: raw bytes, then transfers, then delays. -/
def wireItems (s : State) (raws : List Byte) (transfers : List (Mode × Byte)) (delays : List Nat) : List WireItem :=
  (raws ++ logicalTransfers s.cfg s.bl s.lastMode transfers).map (.byte s.addr) ++ delays.map .delay

theorem wireOf_of_not_isInit (s : State) {i : Instr} (hi : ¬ IsInit i) :
    wireOf s i = wireItems s (rawsOf s i) (transfersOf s i) (delaysOf s.cfg i) := by
  cases i with
  | init a c r => exact absurd ⟨a, c, r, rfl⟩ hi
  | _ => rfl

theorem State.wire_afterTransfer_eq (s : State) (v : Byte) (m : Mode) (buf : Bool) :
    (s.afterTransfer v m buf).wire = s.wire ++ wireItems s [] [(m, v)] [] := by
  simp [State.wire_afterTransfer, wireItems, logicalTransfers]

theorem State.wire_transferThenDelay (s : State) (v : Byte) (m : Mode) (us : Nat) :
    ((s.afterTransfer v m false).afterDelay us).wire = s.wire ++ wireItems s [] [(m, v)] [us] := by
  rw [State.wire_afterDelay _ _ (State.afterTransfer_false_buf s v m), State.wire_afterTransfer_eq]
  simp [wireItems]

theorem State.wire_afterByte (s : State) (x : Byte) (buf : Bool) :
    (s.afterBytes 1 [x] buf).wire = s.wire ++ wireItems s [x] [] [] := by
  simp [State.wire_afterBytes, wireItems, logicalTransfers]

theorem State.wire_afterData_eq (s : State) (data : List Byte) :
    (s.afterData data).wire = s.wire ++ wireItems s [] (data.map fun d => (.data, d)) [] := by
  simp [State.wire_afterData, wireItems]

/-- The glyph load on the wire: ten transfers in a row (42_glyphs R130). -/
theorem State.wire_glyphLoad (s : State) (select home : Byte) (g : Glyph) :
    (((s.afterTransfer select .cmd true).afterData g.rows).afterTransfer home .cmd false).wire =
      s.wire ++ wireItems s [] ((.cmd, select) :: g.rows.map (fun d => (.data, d)) ++ [(.cmd, home)]) [] := by
  simp [State.wire_afterTransfer, Glyph.rows, wireItems, logicalTransfers]

/-- The wire of every operation other than INIT. -/
theorem Leaves.wire_eq {s t : State} {i : Instr} (h : Leaves s t i) :
    t.wire = s.wire ++ wireItems s (rawsOf s i) (transfersOf s i) (delaysOf s.cfg i) := by
  cases i with
  | init => exact h.elim
  | writeChar | sendCmd | sendData | scrollLeft =>
    subst h
    exact s.wire_afterTransfer_eq _ _ _
  | scrollRight =>
    subst h
    rw [BitVec.or_assoc]
    exact s.wire_afterTransfer_eq _ _ _
  | display | noDisplay | cursor | noCursor | blink | noBlink | autoscroll | noAutoscroll | leftToRight | rightToLeft =>
    subst h
    exact State.wire_afterTransfer_eq _ _ _ _
  | backlight | noBacklight =>
    subst h
    exact State.wire_afterByte _ _ _
  | writeByte =>
    subst h
    exact s.wire_afterByte _ _
  | clear | home =>
    subst h
    exact s.wire_transferThenDelay _ _ _
  | write b data =>
    subst h
    cases b
    · exact (State.wire_afterShow _).trans (s.wire_afterData_eq data)
    · exact s.wire_afterData_eq data
  | setCursor b line position =>
    obtain ⟨a, ha, rfl⟩ := h
    rw [setDdramCommand_of_ddramAddress ha]
    exact s.wire_afterTransfer_eq _ _ _
  | createChar slot g =>
    subst h
    rw [setCgramCommand_eq_glyphCommand, setDdramCommand_of_ddramAddress (ddramAddress_zero s.cfg)]
    exact s.wire_glyphLoad _ _ g
  | showBuffer =>
    subst h
    exact (State.wire_afterShow s).trans (List.append_nil _).symm

/-! ### INIT -/

/-- Events after an empty buffer stand at the end of the wire. -/
theorem State.wire_emitted (s : State) (es : List Event) (hbuf : s.buf = []) :
    ({ s with out := s.out ++ es } : State).wire = s.wire ++ es.flatMap Event.wire := by
  simp [State.wire, hbuf]

/-- The four transfers and the delay of INIT in one list (44_init R177, R178). -/
theorem State.wire_powerOnSequence (s : State) (hcap : 5 ≤ s.cfg.cap) (hbuf : s.buf = []) :
    s.powerOnSequence.wire = s.wire ++ s.syncEvents.flatMap Event.wire ++
      wireItems s [] [(.cmd, s.cfg.cEntryMode ||| s.emode), (.cmd, s.cfg.cFunctionSet ||| s.fset),
        (.cmd, s.cfg.cDisplayCtl ||| s.dctl), (.cmd, s.cfg.cClear)] [s.cfg.tClear] := by
  rw [State.powerOnSequence_eq s hcap hbuf]
  have henter : ∀ (u : State) (i : InitState), (u.enter i).wire = u.wire := fun _ _ => rfl
  rw [henter, State.wire_afterDelay _ _ (State.afterTransfer_false_buf _ _ _)]
  simp [State.wire_afterTransfer, State.wire_emitted s _ hbuf, wireItems, logicalTransfers]

/-- The wire INIT leaves, from every state with a well-formed CFG: what was handed over before the register reset, then
the fixed sequence to the new address. -/
theorem wire_of_exec_init {a c r : Byte} {s t : State} (h : exec (.init a c r) s = .next t) :
    t.wire = s.supersede.out.flatMap Event.wire ++ wireOf s (.init a c r) := by
  obtain ⟨⟨hcap, -⟩, rfl⟩ := exec_init_next h
  rw [State.wire_powerOnSequence _ (by simpa using hcap) rfl, State.resetSession_supersede]
  -- Both sides list the same items; the statement spells the clamp and FSET's `N` bit in its own words.
  simp [State.wire, wireOf, initOperands, initWire, initEvents, initTransfers, rawPair, geometry, State.syncEvents,
    wireItems, Event.wire, functionSetFlags, clampGeometry, flagN]

/-- Where there is nothing to lose, the supersession flush hands everything over (44_init R171). -/
theorem State.supersede_out_wire {s : State} (h : NothingToLose s) :
    s.supersede.out.flatMap Event.wire = s.wire := by
  have hbuf : s.supersede.buf = [] := by
    rw [State.supersede_eq]
    split
    · rfl
    · exact h.resolve_left ‹_›
  have hwire : s.supersede.wire = s.wire := by
    rw [State.supersede_eq]
    split
    · exact s.wire_afterShow
    · rfl
  rw [← hwire, State.wire, hbuf]
  exact (List.append_nil _).symm

/-- The wire law: every operation that completes, from a state with nothing to lose. -/
theorem wire_of_exec {i : Instr} {s t : State} (hs : NothingToLose s) (h : exec i s = .next t) :
    t.wire = s.wire ++ wireOf s i := by
  by_cases hi : IsInit i
  · obtain ⟨a, c, r, rfl⟩ := hi
    rw [wire_of_exec_init h, State.supersede_out_wire hs]
  · rw [wireOf_of_not_isInit s hi]
    exact (leaves_of_exec (ne_init_of_not_isInit hi) h).2.wire_eq

/-! ### Completion -/

/-- A legal Session has a next state for every operation other than INIT: SETCURSOR's target is in the table
(41_text_cursor R114), and nothing else can stop. -/
theorem State.SessionLegal.exists_leaves {s : State} (hlegal : s.SessionLegal) (hwf : s.cfg.WF) {i : Instr}
    (hi : ¬ IsInit i) : ∃ t, Leaves s t i := by
  cases i with
  | init a c r => exact absurd ⟨a, c, r, rfl⟩ hi
  | setCursor b line position =>
    obtain ⟨hline, htarget⟩ := hlegal.target_le hwf line.toNat position.toNat
    exact ⟨_, _, ddramAddress_of_le hline htarget, rfl⟩
  | _ => exact ⟨_, rfl⟩

/-- An admitted operation completes, from every state that meets the invariant (60_exceptions R190). -/
theorem exec_completes {i : Instr} {s : State} (hs : s.Inv) (h : s.initState = .cleared ∨ IsInit i) :
    ∃ t, exec i s = .next t := by
  obtain ⟨hwf, -, -, -, -, -, hlegal⟩ := hs
  by_cases hi : IsInit i
  · obtain ⟨a, c, r, rfl⟩ := hi
    exact ⟨_, by rw [exec_init, State.built_of_wf hwf]⟩
  · have hcleared := h.resolve_right hi
    obtain ⟨t, hleaves⟩ := (hlegal hcleared).exists_leaves hwf hi
    exact ⟨t, exec_of_leaves (ne_init_of_not_isInit hi) ⟨hwf, hcleared⟩ hleaves⟩

/-- Settles O47: an admitted operation completes, and a completed one obeys the wire law. -/
theorem wireRefinesLogicalBytes : Obligations.WireRefinesLogicalBytes := by
  intro i s hs hadmitted
  obtain ⟨t, h⟩ := exec_completes hs (hadmitted.imp_right And.left)
  exact ⟨t, h, wire_of_exec (hadmitted.imp_right And.right) h⟩

end Sys2Proof.Machine
end

section
/-! PROOF. The stream does not depend on where it is cut (20_memory R55): an operation reads and writes only the
registers two alike states share, and CAP and the buffering operands reach nothing but the cuts. -/

namespace Sys2Proof.Machine

open Sys2Proof.Claims

/-- `s` without CAP, without the pending bytes and OUT, and without what is outside CFG and the Session: the registers
that alike states share. -/
def State.shared (s : State) : State :=
  { s with cfg := { s.cfg with cap := 0 }, buf := [], out := [], results := [], port := [], containsRefusal := false }

theorem alike_iff {s t : State} : Alike s t ↔ s.wire = t.wire ∧ s.shared = t.shared := by
  simp [Alike, State.shared]

/-! ### What goes on the wire is read from the shared registers and the operation without its buffering operand -/

theorem logicalTransfers_cap (c : Config) (cap : Nat) (bl : Bool) (last : Option Mode) (xs : List (Mode × Byte)) :
    logicalTransfers { c with cap := cap } bl last xs = logicalTransfers c bl last xs := by
  induction xs generalizing last with
  | nil => rfl
  | cons x rest ih =>
    rw [logicalTransfers, logicalTransfers, ih]
    rfl

theorem wireItems_shared (s : State) (raws : List Byte) (transfers : List (Mode × Byte)) (delays : List Nat) :
    wireItems s.shared raws transfers delays = wireItems s raws transfers delays := by
  rw [wireItems, State.shared, logicalTransfers_cap]
  rfl

theorem wireOf_shared (s : State) (i : Instr) : wireOf s.shared i = wireOf s i := by
  cases i with
  | init => rfl
  | _ => exact wireItems_shared s _ _ _

theorem wireOf_dropB (s : State) (i : Instr) : wireOf s (dropB i) = wireOf s i := by
  cases i <;> rfl

/-! ### The shared registers after an operation -/

/-- The registers after any operation, INIT among them, where the pending bytes and OUT are left aside. -/
def State.registersOf (s : State) : Instr → State
  | .init a c r => initialised s a c r
  | i => s.registersAfter i [] []

theorem State.registersOf_of_not_isInit (s : State) {i : Instr} (hi : ¬ IsInit i) :
    s.registersOf i = s.registersAfter i [] [] := by
  cases i with
  | init a c r => exact absurd ⟨a, c, r, rfl⟩ hi
  | _ => rfl

theorem State.registersOf_dropB (s : State) (i : Instr) : s.registersOf (dropB i) = s.registersOf i := by
  cases i <;> rfl

/-- The shared registers after an operation are read from those before it. -/
theorem shared_of_exec {i : Instr} {s t : State} (h : exec i s = .next t) :
    t.shared = (s.shared.registersOf i).shared := by
  by_cases hi : IsInit i
  · obtain ⟨a, c, r, rfl⟩ := hi
    rw [exec_init_eq_initialised h]
    rfl
  · rw [State.registersOf_of_not_isInit _ hi, exec_eq_registersAfter hi h]
    rfl

/-! ### Two runs -/

/-- The same operation but for its buffering operand keeps two states alike. -/
theorem exec_keeps_alike {i i' : Instr} {s s' t t' : State} (hop : dropB i = dropB i') (hs : NothingToLose s)
    (hs' : NothingToLose s') (halike : Alike s s') (h : exec i s = .next t) (h' : exec i' s' = .next t') :
    Alike t t' := by
  obtain ⟨hwire, hshared⟩ := alike_iff.mp halike
  refine alike_iff.mpr ⟨?wire, ?shared⟩
  case wire =>
    calc t.wire = s.wire ++ wireOf s.shared (dropB i) := by rw [wire_of_exec hs h, wireOf_dropB, wireOf_shared]
      _ = s'.wire ++ wireOf s'.shared (dropB i') := by rw [hwire, hshared, hop]
      _ = t'.wire := by rw [wire_of_exec hs' h', wireOf_dropB, wireOf_shared]
  case shared =>
    calc t.shared = (s.shared.registersOf (dropB i)).shared := by rw [shared_of_exec h, State.registersOf_dropB]
      _ = (s'.shared.registersOf (dropB i')).shared := by rw [hshared, hop]
      _ = t'.shared := by rw [shared_of_exec h', State.registersOf_dropB]

/-- Whatever operation completes leaves an initialised Session. -/
theorem cleared_of_exec {i : Instr} {s t : State} (h : exec i s = .next t) : t.initState = .cleared := by
  by_cases hi : IsInit i
  · obtain ⟨a, c, r, rfl⟩ := hi
    rw [exec_init_eq_initialised h]
    rfl
  · obtain ⟨-, hcleared⟩ := ready_of_exec_next (ne_init_of_not_isInit hi) h
    rw [exec_eq_registersAfter hi h]
    exact hcleared

/-- Two completed runs of the same operations but for their buffering operands keep two states alike: after the first
operation nothing can be lost. -/
theorem runOps_keeps_alike {ops ops' : List Instr} {s s' t t' : State} (hops : ops.map dropB = ops'.map dropB)
    (hs : NothingToLose s) (hs' : NothingToLose s') (halike : Alike s s') (hrun : runOps ops s = .next t)
    (hrun' : runOps ops' s' = .next t') : Alike t t' := by
  induction ops generalizing ops' s s' with
  | nil =>
    obtain rfl : ops' = [] := List.map_eq_nil_iff.mp hops.symm
    cases hrun
    cases hrun'
    exact halike
  | cons i rest ih =>
    cases ops' with
    | nil => nomatch hops
    | cons i' rest' =>
      obtain ⟨hop, hrest⟩ := List.cons.inj hops
      obtain ⟨u, hexec, hrun⟩ := runOps_cons_next hrun
      obtain ⟨u', hexec', hrun'⟩ := runOps_cons_next hrun'
      exact ih hrest (.inl (cleared_of_exec hexec)) (.inl (cleared_of_exec hexec'))
        (exec_keeps_alike hop hs hs' halike hexec hexec') hrun hrun'

/-- Settles O48: operation by operation, `exec_keeps_alike`. -/
theorem streamIndependentOfCutting : Obligations.StreamIndependentOfCutting :=
  fun _ _ _ _ _ _ hops _ _ hs hs' halike hrun hrun' => runOps_keeps_alike hops hs hs' halike hrun hrun'

end Sys2Proof.Machine
end

section
/-! PROOF. The byte law, which is the wire law without addresses and delays, and what follows from it: where nothing is
flushed the buffer only grows at its end (20_memory R41), and the control bits of every emitted byte (20_memory R44). -/

namespace Sys2Proof.Machine

open Sys2Proof.Claims

/-- The bytes of one wire item. -/
def WireItem.bytes : WireItem → List Byte
  | .byte _ b => [b]
  | .delay _ => []

theorem State.full_eq_bytes (s : State) : s.full = s.wire.flatMap WireItem.bytes := s.full_eq_wire

/-- The byte law: what every operation that completes adds to the stream of bytes, from a state with nothing to lose. -/
theorem full_of_exec {i : Instr} {s t : State} (hs : NothingToLose s) (h : exec i s = .next t) :
    t.full = s.full ++ (wireOf s i).flatMap WireItem.bytes := by
  rw [State.full_eq_bytes, State.full_eq_bytes, wire_of_exec hs h, List.flatMap_append]

@[simp] theorem flatMap_bytes_map_byte (a : Byte) (bytes : List Byte) :
    (bytes.map (WireItem.byte a)).flatMap WireItem.bytes = bytes := by
  simp [List.flatMap_map, WireItem.bytes]

@[simp] theorem flatMap_bytes_map_delay (delays : List Nat) :
    (delays.map WireItem.delay).flatMap WireItem.bytes = [] := by
  simp [WireItem.bytes]

theorem wireItems_bytes (s : State) (raws : List Byte) (transfers : List (Mode × Byte)) (delays : List Nat) :
    (wireItems s raws transfers delays).flatMap WireItem.bytes =
      raws ++ logicalTransfers s.cfg s.bl s.lastMode transfers := by
  rw [wireItems, List.flatMap_append, flatMap_bytes_map_byte, flatMap_bytes_map_delay, List.append_nil]

theorem initWire_bytes (c : Config) (a : Byte) (rows : Nat) :
    (initWire c a rows).flatMap WireItem.bytes = rawPair c 0x30 ++ rawPair c 0x30 ++ rawPair c 0x30 ++
      rawPair c 0x20 ++ logicalTransfers c c.blReset none (initTransfers c rows) := by
  simp [initWire, initEvents, Event.wire, WireItem.bytes]

/-! ### An operation that flushes nothing -/

/-- INIT always hands something over: its fixed sequence follows all that stood in OUT. -/
theorem out_ne_of_exec_init {a c r : Byte} {s t : State} (h : exec (.init a c r) s = .next t) : t.out ≠ s.out := by
  intro hout
  have hbuf : t.buf = [] := by
    rw [exec_init_eq_initialised h]
    rfl
  obtain ⟨es, hes⟩ := s.emits_supersede.out_grows
  have hwire := wire_of_exec_init h
  rw [State.wire, hbuf, hout, ← hes, List.flatMap_append] at hwire
  simp [wireOf, initOperands, initWire, initEvents, Event.wire] at hwire

/-- An operation that flushes nothing appends to the pending bytes (40_encoder_primitives R90). -/
theorem buf_grows_of_out_eq {i : Instr} {s t : State} (h : exec i s = .next t) (hout : t.out = s.out) :
    s.buf <+: t.buf := by
  by_cases hi : IsInit i
  · obtain ⟨a, c, r, rfl⟩ := hi
    exact absurd hout (out_ne_of_exec_init h)
  · obtain ⟨-, hcleared⟩ := ready_of_exec_next (ne_init_of_not_isInit hi) h
    have hfull := full_of_exec (.inl hcleared) h
    rw [State.full, State.full, hout, List.append_assoc] at hfull
    exact ⟨_, (List.append_cancel_left hfull).symm⟩

/-- Settles O42: the indexes below the old FILL are those of a front of the new buffer; at or above the new FILL neither
buffer holds a value. -/
theorem bufferIsAppendOnly : Obligations.BufferIsAppendOnly := by
  intro i s t h hout
  obtain ⟨added, hbuf⟩ := buf_grows_of_out_eq h hout
  have hfill : s.fill ≤ t.fill := by simp [State.fill, ← hbuf]
  refine ⟨hfill, fun a ha => ?_⟩
  rcases ha with hbelow | habove
  · rw [State.bufByte, State.bufByte, ← hbuf]
    exact List.getElem?_append_left hbelow
  · rw [State.bufByte, State.bufByte, List.getElem?_eq_none habove, List.getElem?_eq_none (hfill.trans habove)]

/-! ### The control bits of an emitted byte -/

theorem controlBit_and_eq_zero {m n : Byte} (hm : Config.ControlBit m) (hn : Config.ControlBit n)
    (hne : m ≠ n) : m &&& n = 0 := by
  rcases hm with rfl | rfl | rfl | rfl <;> rcases hn with rfl | rfl | rfl | rfl <;> revert hne <;> decide

/-- A control bit lies in the low nibble. -/
theorem high_and_controlBit {m : Byte} (hm : Config.ControlBit m) : 0xF0 &&& m = 0 := by
  rcases hm with rfl | rfl | rfl | rfl <;> decide

/-- `x` sets neither the read/write bit nor the backlight bit. -/
def Plain (c : Config) (x : Byte) : Prop := x &&& c.rwMask = 0 ∧ x &&& c.blMask = 0

/-- `x` has the read/write bit 0 and carries the backlight bit `bl` (20_memory R44, 10_state R16). -/
def Carries (c : Config) (bl : Bool) (x : Byte) : Prop := x &&& c.rwMask = 0 ∧ x &&& c.blMask = blBits c bl

section
variable {c : Config}

theorem Plain.or {x y : Byte} (hx : Plain c x) (hy : Plain c y) : Plain c (x ||| y) := by
  obtain ⟨hx1, hx2⟩ := hx
  obtain ⟨hy1, hy2⟩ := hy
  constructor <;> simp [BitVec.and_or_distrib_right, *]

theorem Carries.or {bl : Bool} {x y : Byte} (hx : Carries c bl x) (hy : Plain c y) : Carries c bl (x ||| y) := by
  obtain ⟨hx1, hx2⟩ := hx
  obtain ⟨hy1, hy2⟩ := hy
  constructor <;> simp [BitVec.and_or_distrib_right, *]

variable (hmasks : c.MasksDistinct)
include hmasks

theorem plain_high (v : Byte) : Plain c (v &&& 0xF0) := by
  obtain ⟨⟨-, hrw, -, hbl⟩, -⟩ := hmasks
  constructor
  · rw [BitVec.and_assoc, high_and_controlBit hrw]
    exact BitVec.and_zero
  · rw [BitVec.and_assoc, high_and_controlBit hbl]
    exact BitVec.and_zero

theorem plain_modeBits (m : Mode) : Plain c (modeBits c m) := by
  obtain ⟨⟨hrs, hrw, -, hbl⟩, ⟨hrsrw, -, hrsbl⟩, -⟩ := hmasks
  cases m
  · exact ⟨BitVec.zero_and, BitVec.zero_and⟩
  · exact ⟨controlBit_and_eq_zero hrs hrw hrsrw, controlBit_and_eq_zero hrs hbl hrsbl⟩

theorem plain_enMask : Plain c c.enMask := by
  obtain ⟨⟨-, hrw, hen, hbl⟩, -, hrwen, -, henbl⟩ := hmasks
  exact ⟨controlBit_and_eq_zero hen hrw hrwen.symm, controlBit_and_eq_zero hen hbl henbl⟩

theorem carries_blBits (bl : Bool) : Carries c bl (blBits c bl) := by
  obtain ⟨⟨-, hrw, -, hbl⟩, -, -, hrwbl, -⟩ := hmasks
  cases bl
  · exact ⟨BitVec.zero_and, BitVec.zero_and⟩
  · exact ⟨controlBit_and_eq_zero hbl hrw hrwbl.symm, BitVec.and_self⟩

theorem Plain.carries {x : Byte} (hx : Plain c x) (bl : Bool) : Carries c bl (x ||| blBits c bl) := by
  rw [BitVec.or_comm]
  exact (carries_blBits hmasks bl).or hx

theorem carries_of_mem_logicalTransfer {bl : Bool} {last : Option Mode} {v : Byte} {m : Mode} {x : Byte}
    (hx : x ∈ logicalTransfer c bl last v m) : Carries c bl x := by
  have hmode : Carries c bl (modeByte c bl m) := (plain_modeBits hmasks m).carries hmasks bl
  have hhi : Carries c bl (hiNibble c bl v m) :=
    ((plain_high hmasks v).or (plain_modeBits hmasks m)).carries hmasks bl
  have hlo : Carries c bl (loNibble c bl v m) :=
    ((plain_high hmasks (v <<< 4)).or (plain_modeBits hmasks m)).carries hmasks bl
  have hen := plain_enMask hmasks
  rcases List.mem_append.mp hx with hfirst | hpairs
  · split at hfirst
    · cases hfirst
    · rwa [List.mem_singleton.mp hfirst]
  · simp only [List.mem_cons, List.not_mem_nil, or_false] at hpairs
    rcases hpairs with rfl | rfl | rfl | rfl
    · exact hhi.or hen
    · exact hhi
    · exact hlo.or hen
    · exact hlo

theorem carries_of_mem_logicalTransfers {bl : Bool} {last : Option Mode} {xs : List (Mode × Byte)} {x : Byte}
    (hx : x ∈ logicalTransfers c bl last xs) : Carries c bl x := by
  induction xs generalizing last with
  | nil => cases hx
  | cons y rest ih =>
    rcases List.mem_append.mp hx with hhead | htail
    · exact carries_of_mem_logicalTransfer hmasks hhead
    · exact ih htail

/-- The raw nibbles of INIT carry the reset backlight bit (44_init R174). -/
theorem carries_of_mem_rawPair {k x : Byte} (hk : k &&& 0xF0 = k) (hx : x ∈ rawPair c k) : Carries c c.blReset x := by
  have hhigh : Plain c k := hk ▸ plain_high hmasks k
  simp only [rawPair, List.mem_cons, List.not_mem_nil, or_false] at hx
  rcases hx with rfl | rfl
  · exact (hhigh.or (plain_enMask hmasks)).carries hmasks _
  · exact hhigh.carries hmasks _

theorem carries_of_mem_initWire {a : Byte} {rows : Nat} {x : Byte}
    (hx : x ∈ (initWire c a rows).flatMap WireItem.bytes) : Carries c c.blReset x := by
  simp only [initWire_bytes, List.mem_append] at hx
  rcases hx with (((hx | hx) | hx) | hx) | hx
  case inr => exact carries_of_mem_logicalTransfers hmasks hx
  all_goals exact carries_of_mem_rawPair hmasks (by decide) hx

end

/-- The raw byte of a backlight operation carries the backlight bit that operation writes (43_feature_toggles R153). -/
theorem carries_of_mem_rawsOf {s : State} {i : Instr} (hmasks : s.cfg.MasksDistinct)
    (hraw : ∀ b v, i ≠ .writeByte b v) {x : Byte} (hx : x ∈ rawsOf s i) : Carries s.cfg (blAfter s.bl i) x := by
  cases i with
  | backlight => exact List.mem_singleton.mp hx ▸ carries_blBits hmasks true
  | noBacklight => exact List.mem_singleton.mp hx ▸ carries_blBits hmasks false
  | writeByte b v => exact absurd rfl (hraw b v)
  | _ => cases hx

/-- An operation with transfers leaves BL as it is. -/
theorem blAfter_of_transfersOf_ne_nil {s : State} {i : Instr} (h : transfersOf s i ≠ []) : blAfter s.bl i = s.bl := by
  apply blAfter_of_not_backlight
  all_goals
    rintro rfl
    exact h rfl

theorem carries_of_mem_transfersOf {s : State} {i : Instr} (hmasks : s.cfg.MasksDistinct) {x : Byte}
    (hx : x ∈ logicalTransfers s.cfg s.bl s.lastMode (transfersOf s i)) : Carries s.cfg (blAfter s.bl i) x := by
  have hne : transfersOf s i ≠ [] := by
    intro hnil
    rw [hnil] at hx
    cases hx
  rw [blAfter_of_transfersOf_ne_nil hne]
  exact carries_of_mem_logicalTransfers hmasks hx

/-- Every byte an operation other than WRITEBYTE adds carries BL as the operation leaves it. -/
theorem carries_of_exec {i : Instr} {s t : State} (h : exec i s = .next t) (hraw : ∀ b v, i ≠ .writeByte b v)
    {x : Byte} (hx : x ∈ (wireOf s i).flatMap WireItem.bytes) : Carries s.cfg t.bl x := by
  obtain ⟨-, hmasks, -⟩ := wf_of_exec_next h
  by_cases hi : IsInit i
  · obtain ⟨a, c, r, rfl⟩ := hi
    rw [exec_init_eq_initialised h]
    exact carries_of_mem_initWire hmasks hx
  · rw [exec_eq_registersAfter hi h]
    rw [wireOf_of_not_isInit s hi, wireItems_bytes] at hx
    rcases List.mem_append.mp hx with hrawByte | htransfer
    · exact carries_of_mem_rawsOf hmasks hraw hrawByte
    · exact carries_of_mem_transfersOf hmasks htransfer

/-- Settles O45: the byte law names the bytes, and each carries BL. -/
theorem emittedControlBits : Obligations.EmittedControlBits :=
  fun _ _ _ h hs hraw => ⟨_, full_of_exec hs h, fun _ hx => carries_of_exec h hraw hx⟩

end Sys2Proof.Machine
end

section
/-! PROOF. The block writes an operation adds: their size and their address (20_memory R43, R49). -/

namespace Sys2Proof.Machine

open Sys2Proof.Claims

/-! ### Elementary actions -/

/-- One elementary action of an operation, in the closed forms of the procedures: a transfer, a raw byte, a flush, a
delay, or register writes that leave CFG, ADDR, the pending bytes and OUT alone. -/
inductive State.Act : State → State → Prop
  | transfer (s : State) (v : Byte) (m : Mode) (buf : Bool) : Act s (s.afterTransfer v m buf)
  | byte (s : State) (x : Byte) (buf : Bool) : Act s (s.afterBytes 1 [x] buf)
  | flush (s : State) : Act s s.afterShow
  | delay (s : State) (us : Nat) : Act s (s.afterDelay us)
  | registers {s t : State} (hcfg : t.cfg = s.cfg) (haddr : t.addr = s.addr) (hbuf : t.buf = s.buf)
      (hout : t.out = s.out) : Act s t

/-- Elementary actions one after another. -/
abbrev State.Acts : State → State → Prop := Relation.ReflTransGen State.Act

namespace State.Acts

variable {s t : State}

theorem transfer (h : s.Acts t) (v : Byte) (m : Mode) (buf : Bool) : s.Acts (t.afterTransfer v m buf) :=
  h.tail (.transfer t v m buf)

theorem data (h : s.Acts t) (bytes : List Byte) : s.Acts (t.afterData bytes) := by
  induction bytes generalizing t with
  | nil => exact h
  | cons d rest ih => exact ih (h.transfer d .data true)

theorem delay (h : s.Acts t) (us : Nat) : s.Acts (t.afterDelay us) := h.tail (.delay t us)

theorem enter (h : s.Acts t) (i : InitState) : s.Acts (t.enter i) := h.tail (.registers rfl rfl rfl rfl)

end State.Acts

/-- The flag registers can be written without emitting anything. -/
theorem State.acts_flags (s : State) (bl : Bool) (dctl emode : Byte) :
    s.Acts { s with bl := bl, dctl := dctl, emode := emode } :=
  .single (.registers rfl rfl rfl rfl)

/-- Every operation other than INIT is a row of elementary actions. -/
theorem Leaves.acts {s t : State} {i : Instr} (h : Leaves s t i) : s.Acts t := by
  have hs : s.Acts s := .refl
  cases i with
  | init => exact h.elim
  | writeChar | sendCmd | sendData | scrollLeft | scrollRight =>
    subst h
    exact hs.transfer _ _ _
  | display | noDisplay | cursor | noCursor | blink | noBlink | autoscroll | noAutoscroll | leftToRight | rightToLeft =>
    subst h
    exact (s.acts_flags _ _ _).transfer _ _ _
  | backlight | noBacklight =>
    subst h
    exact (s.acts_flags _ _ _).tail (.byte _ _ _)
  | writeByte =>
    subst h
    exact hs.tail (.byte _ _ _)
  | clear | home =>
    subst h
    exact (hs.transfer _ _ _).delay _
  | write b data =>
    subst h
    cases b
    · exact (hs.data data).tail (.flush _)
    · exact hs.data data
  | setCursor =>
    obtain ⟨a, -, rfl⟩ := h
    exact hs.transfer _ _ _
  | createChar =>
    subst h
    exact ((hs.transfer _ _ _).data _).transfer _ _ _
  | showBuffer =>
    subst h
    exact (hs.tail (.flush s)).tail (.registers rfl rfl rfl rfl)

/-- The power-on sequence behind its synchronisation events (44_init R177, R178). -/
theorem State.acts_powerOnSequence (s : State) (hcap : 5 ≤ s.cfg.cap) (hbuf : s.buf = []) :
    State.Acts { s with out := s.out ++ s.syncEvents } s.powerOnSequence := by
  rw [State.powerOnSequence_eq s hcap hbuf]
  have hsync : State.Acts { s with out := s.out ++ s.syncEvents } { s with out := s.out ++ s.syncEvents } := .refl
  exact (((((hsync.transfer _ _ _).transfer _ _ _).transfer _ _ _).transfer _ _ _).delay _).enter .cleared

/-! ### What elementary actions send -/

/-- A block write goes to `a` and carries 1 to `cap` bytes (20_memory R43, R49). -/
def Event.Fits (a : Byte) (cap : Nat) (e : Event) : Prop :=
  ∀ d bytes, e = .bw d bytes → d = a ∧ 1 ≤ bytes.length ∧ bytes.length ≤ cap

theorem Event.fits_dly (a : Byte) (cap us : Nat) : (Event.dly us).Fits a cap := nofun

theorem Event.fits_bw {a : Byte} {cap : Nat} {bytes : List Byte} (hpos : 1 ≤ bytes.length)
    (hcap : bytes.length ≤ cap) : (Event.bw a bytes).Fits a cap := by
  rintro _ _ ⟨⟩
  exact ⟨rfl, hpos, hcap⟩

/-- Since OUT was `out`, under CFG `c` and with ADDR at `a`, only block writes that fit were added, and FILL is at most
CAP. Every elementary action of an operation keeps this. -/
structure State.Sent (c : Config) (a : Byte) (out : List Event) (s : State) : Prop where
  cfg_eq : s.cfg = c
  addr_eq : s.addr = a
  fill_le : s.fill ≤ c.cap
  out_eq : ∃ es, s.out = out ++ es ∧ ∀ e ∈ es, e.Fits a c.cap

/-- Nothing was added yet. -/
theorem State.sent_self {s : State} (hfill : s.fill ≤ s.cfg.cap) : State.Sent s.cfg s.addr s.out s :=
  ⟨rfl, rfl, hfill, [], by simp, by simp⟩

namespace State.Sent

variable {c : Config} {a : Byte} {out : List Event} {s : State}

/-- Adding events that fit. -/
theorem append {t : State} {es : List Event} (h : Sent c a out s) (hcfg : t.cfg = s.cfg) (haddr : t.addr = s.addr)
    (hfill : t.fill ≤ c.cap) (hout : t.out = s.out ++ es) (hes : ∀ e ∈ es, e.Fits a c.cap) : Sent c a out t := by
  obtain ⟨before, hbefore, hfits⟩ := h.out_eq
  refine ⟨hcfg.trans h.cfg_eq, haddr.trans h.addr_eq, hfill, before ++ es, ?_, ?_⟩
  · rw [hout, hbefore, List.append_assoc]
  · exact fun e he => (List.mem_append.mp he).elim (hfits e) (hes e)

/-- One unit no longer than its room. -/
theorem afterBytes (h : Sent c a out s) {room : Nat} {bytes : List Byte} (buf : Bool) (hroom : room ≤ c.cap)
    (hlen : bytes.length ≤ room) (hne : bytes ≠ []) : Sent c a out (s.afterBytes room bytes buf) := by
  obtain ⟨rfl, rfl, hfill, -⟩ := id h
  obtain ⟨es, hout, hes⟩ := s.afterBytes_out room bytes buf hfill hroom hlen hne
  refine h.append rfl rfl (s.afterBytes_fill_le room bytes buf hroom hlen) hout fun e he => ?_
  obtain ⟨_, rfl, hpos, hcap⟩ := hes e he
  exact Event.fits_bw hpos hcap

theorem afterTransfer (h : Sent c a out s) (hcap : 5 ≤ c.cap) (v : Byte) (m : Mode) (buf : Bool) :
    Sent c a out (s.afterTransfer v m buf) := by
  have hlen : (logicalTransfer s.cfg s.bl s.lastMode v m).length ≤ 5 := by
    rw [logicalTransfer_length]
    split <;> decide
  obtain ⟨hcfg, haddr, hfill, hout⟩ := h.afterBytes buf hcap hlen (logicalTransfer_ne_nil _ _ _ _ _)
  exact ⟨hcfg, haddr, hfill, hout⟩

theorem afterShow (h : Sent c a out s) : Sent c a out s.afterShow := by
  obtain ⟨rfl, rfl, hfill, -⟩ := id h
  refine h.append rfl rfl (Nat.zero_le _) rfl fun e he => ?_
  split at he
  · cases he
  · rw [List.mem_singleton.mp he]
    exact Event.fits_bw (List.length_pos_iff.mpr ‹_›) hfill

theorem afterDelay (h : Sent c a out s) (us : Nat) : Sent c a out (s.afterDelay us) :=
  h.append rfl rfl h.fill_le rfl fun _ he => List.mem_singleton.mp he ▸ Event.fits_dly _ _ _

/-- Elementary actions keep to the block writes that fit. -/
theorem acts {t : State} (h : Sent c a out s) (hcap : 5 ≤ c.cap) (hacts : s.Acts t) : Sent c a out t := by
  induction hacts with
  | refl => exact h
  | tail _ hact ih =>
    cases hact with
    | transfer v m buf => exact ih.afterTransfer hcap v m buf
    | byte x buf => exact ih.afterBytes buf (by omega) le_rfl (by simp)
    | flush => exact ih.afterShow
    | delay us => exact ih.afterDelay us
    | registers hcfg haddr hbuf hout =>
      refine ih.append (es := []) hcfg haddr ?_ (by simpa using hout) (by simp)
      rw [State.fill, hbuf]
      exact ih.fill_le

end State.Sent

/-! ### Every operation -/

/-- The supersession flush of INIT goes to the old ADDR (44_init R171). -/
theorem State.sent_supersede {s : State} (hfill : s.fill ≤ s.cfg.cap) :
    State.Sent s.cfg s.addr s.out s.supersede := by
  rw [State.supersede_eq]
  split
  · exact (State.sent_self hfill).afterShow
  · exact State.sent_self hfill

/-- The power-on sequence goes to ADDR as it stands after the register reset (44_init R172, R174). -/
theorem State.sent_powerOnSequence {s : State} (hcap : 5 ≤ s.cfg.cap) (hbuf : s.buf = []) :
    State.Sent s.cfg s.addr s.out s.powerOnSequence := by
  have hfill : s.fill ≤ s.cfg.cap := by simp [State.fill, hbuf]
  have hsync : State.Sent s.cfg s.addr s.out { s with out := s.out ++ s.syncEvents } := by
    refine (State.sent_self hfill).append rfl rfl hfill rfl ?_
    have hpair : ∀ x y : Byte, (Event.bw s.addr [x, y]).Fits s.addr s.cfg.cap :=
      fun _ _ => Event.fits_bw (by simp) (by simp; omega)
    simp [State.syncEvents, Event.fits_dly, hpair]
  exact hsync.acts hcap (s.acts_powerOnSequence hcap hbuf)

/-- The events an operation adds: block writes of 1 to CAP bytes, to ADDR as it was or as it is. -/
theorem out_eq_of_exec {i : Instr} {s t : State} (hfill : s.fill ≤ s.cfg.cap) (h : exec i s = .next t) :
    ∃ es, t.out = s.out ++ es ∧ ∀ e ∈ es, e.Fits s.addr s.cfg.cap ∨ e.Fits t.addr s.cfg.cap := by
  by_cases hi : IsInit i
  · obtain ⟨a, c, r, rfl⟩ := hi
    obtain ⟨hwf, ht⟩ := exec_init_next h
    obtain ⟨-, -, -, old, hold, hfitsOld⟩ := State.sent_supersede hfill
    have hreset := State.sent_powerOnSequence (s := s.supersede.resetSession a c r) (by simpa using hwf.1) rfl
    rw [← ht] at hreset
    obtain ⟨-, haddr, -, new, hnew, hfitsNew⟩ := hreset
    rw [← haddr] at hfitsNew
    refine ⟨old ++ new, by rw [hnew, State.resetSession_out, hold, List.append_assoc], fun e he => ?_⟩
    exact (List.mem_append.mp he).imp (hfitsOld e) (by simpa using hfitsNew e)
  · obtain ⟨⟨⟨hcap, -⟩, -⟩, hleaves⟩ := leaves_of_exec (ne_init_of_not_isInit hi) h
    obtain ⟨-, -, -, es, hout, hfits⟩ := (State.sent_self hfill).acts hcap hleaves.acts
    exact ⟨es, hout, fun e he => .inl (hfits e he)⟩

/-- Settles O43: what stands behind the old OUT is what the operation added, and a block write there fits. -/
theorem blockWritesGoToAddr : Obligations.BlockWritesGoToAddr := by
  intro i s t h hfill d bytes hmem
  obtain ⟨es, hout, hes⟩ := out_eq_of_exec hfill h
  rw [hout, List.drop_left] at hmem
  rcases hes _ hmem with hold | hnew
  · obtain ⟨haddr, hpos, hcap⟩ := hold d bytes rfl
    exact ⟨hpos, hcap, .inl haddr⟩
  · obtain ⟨haddr, hpos, hcap⟩ := hnew d bytes rfl
    exact ⟨hpos, hcap, .inr haddr⟩

end Sys2Proof.Machine
end

section
/-! PROOF. The decoder and the encoder are inverse to each other (30_encoding R71 to R76): a header written by the encoder
selects its row of the operation map, and what a row reads from the bytes behind a header is what the encoder writes. -/

namespace Sys2Proof

open Sys2Proof.Claims

/-- The header of a row selects that row, with its buffering bit (30_encoding R71, R72). -/
theorem decode_header (b : Bool) {op : Byte} (hop : op < 32) (rest : List Byte) :
    decode (header b op :: rest) = decodeOp op.toNat b rest := by
  have hfields : headerReserved (header b op) = 0 ∧ headerOp (header b op) = op.toNat ∧ headerB (header b op) = b := by
    revert op
    cases b <;> decide
  obtain ⟨hreserved, hnumber, hbuffering⟩ := hfields
  rw [decode, if_pos hreserved, hnumber, hbuffering]

/-- Settles O1: the header selects the operation's own row. Only `WRITE` reads a number of bytes that depends on its
operands. -/
theorem decodeOfEncode : Obligations.DecodeOfEncode := by
  intro i rest hwf
  cases i with
  | write b data =>
    have hlen : data.length ≤ 255 := of_decide_eq_true hwf
    exact (decode_header b (by decide) _).trans (operandsS_of_data (.write b) data rest hlen)
  | _ => exact decode_header _ (by decide) _

/-- Settles O3: each of the eight words is what the encoder writes for its operation. -/
theorem writtenWordsDecode : Obligations.WrittenWordsDecode :=
  ⟨decodeOfEncode (.init 0x27 0x14 0x04) [] rfl, decodeOfEncode (.writeChar true 0x41) [0x15] rfl,
    decodeOfEncode (.write false [0x48, 0x69]) [] rfl, decodeOfEncode (.setCursor true 0x01 0x03) [] rfl,
    decodeOfEncode .rightToLeft [] rfl, decodeOfEncode .backlight [] rfl,
    decodeOfEncode (.createChar 9 ⟨0, 0x0A, 0x1F, 0x1F, 0x0E, 4, 0, 1⟩) [] rfl,
    decodeOfEncode (.sendCmd true 0x0C) [] rfl⟩

/-! ### Each format reads back what the encoder writes in it (30_encoding R73) -/

/-- The decoder's answer to `bytes` is a well-formed operation whose encoding stands at their front, or says that operand
bytes are missing. -/
def ReadsBack (bytes : List Byte) : Decoded → Prop
  | .ok (i, rest) => WellFormed i = true ∧ bytes = encode i ++ rest
  | .error why => why = .truncated

theorem readsBack_truncated (bytes : List Byte) : ReadsBack bytes (.error .truncated) := rfl

theorem readsBack_ok {i : Instr} {words : List Byte} (hi : WellFormed i = true ∧ encode i = words) (rest : List Byte) :
    ReadsBack (words ++ rest) (.ok (i, rest)) := by
  obtain ⟨hwf, rfl⟩ := hi
  exact ⟨hwf, rfl⟩

section
variable {h : Byte}

theorem readsBack_operandsN {i : Instr} (hi : WellFormed i = true ∧ encode i = [h]) (rest : List Byte) :
    ReadsBack (h :: rest) (operandsN i rest) :=
  readsBack_ok hi rest

theorem readsBack_operandsV {f : Byte → Instr} (hf : ∀ v, WellFormed (f v) = true ∧ encode (f v) = [h, v])
    (operands : List Byte) : ReadsBack (h :: operands) (operandsV f operands) := by
  unfold operandsV
  split
  · exact readsBack_ok (hf _) _
  · exact readsBack_truncated _

theorem readsBack_operandsP {f : Byte → Byte → Instr}
    (hf : ∀ x y, WellFormed (f x y) = true ∧ encode (f x y) = [h, x, y]) (operands : List Byte) :
    ReadsBack (h :: operands) (operandsP f operands) := by
  unfold operandsP
  split
  · exact readsBack_ok (hf _ _) _
  all_goals exact readsBack_truncated _

theorem readsBack_operandsI {f : Byte → Byte → Byte → Instr}
    (hf : ∀ x y z, WellFormed (f x y z) = true ∧ encode (f x y z) = [h, x, y, z]) (operands : List Byte) :
    ReadsBack (h :: operands) (operandsI f operands) := by
  unfold operandsI
  split
  · exact readsBack_ok (hf _ _ _) _
  all_goals exact readsBack_truncated _

theorem readsBack_operandsG {f : Byte → Glyph → Instr}
    (hf : ∀ slot g, WellFormed (f slot g) = true ∧ encode (f slot g) = h :: slot :: g.rows) (operands : List Byte) :
    ReadsBack (h :: operands) (operandsG f operands) := by
  unfold operandsG
  split
  · exact readsBack_ok (hf _ _) _
  · exact readsBack_truncated _

/-- The length byte `n` is at most 255, so an operation that is read with `n` data bytes is well formed. -/
theorem readsBack_operandsS {f : List Byte → Instr}
    (hf : ∀ data, data.length ≤ 255 →
      WellFormed (f data) = true ∧ encode (f data) = h :: BitVec.ofNat 8 data.length :: data) (operands : List Byte) :
    ReadsBack (h :: operands) (operandsS f operands) := by
  unfold operandsS
  split
  · next n rest =>
    split
    · next hn =>
      have hlen : (rest.take n.toNat).length = n.toNat := List.length_take_of_le hn
      have hi := hf (rest.take n.toNat) (by rw [hlen]; exact Nat.le_of_lt_succ n.isLt)
      have hread := readsBack_ok hi (rest.drop n.toNat)
      rwa [hlen, BitVec.ofNat_toNat, BitVec.setWidth_eq, List.cons_append, List.cons_append,
        List.take_append_drop] at hread
    · exact readsBack_truncated _
  · exact readsBack_truncated _

end

/-! ### The headers that select an operation (30_encoding R71, R75) -/

/-- The header names a row of the operation map, and its bit 7 is set only where the row has a buffering operand. -/
structure Selects (h : Byte) : Prop where
  reserved : headerReserved h = 0
  op : headerOp h < 0x19
  buffering : headerB h = true → headerOp h ∈ bufferedOps

theorem decode_of_reserved_eq {h : Byte} (hreserved : headerReserved h = 0) (rest : List Byte) :
    decode (h :: rest) = decodeOp (headerOp h) (headerB h) rest := if_pos hreserved

theorem decode_of_reserved_ne {h : Byte} (hreserved : headerReserved h ≠ 0) (rest : List Byte) :
    decode (h :: rest) = .error .reservedBits := if_neg hreserved

theorem decodeOp_of_reservedOp {op : Nat} (hop : 0x19 ≤ op) (b : Bool) (rest : List Byte) :
    decodeOp op b rest = .error .reservedOp := by
  obtain ⟨k, rfl⟩ := Nat.exists_eq_add_of_le' hop
  rfl

theorem decodeOp_of_not_buffered {op : Nat} (hop : op < 0x19) (hrow : op ∉ bufferedOps) (rest : List Byte) :
    decodeOp op true rest = .error .bufferingNotAllowed := by
  match op with
  | 0x01 | 0x02 | 0x03 | 0x16 | 0x17 | 0x18 => exact absurd (by decide) hrow
  | 0x00 | 0x04 | 0x05 | 0x06 | 0x07 | 0x08 | 0x09 | 0x0A | 0x0B | 0x0C | 0x0D | 0x0E | 0x0F | 0x10 | 0x11 | 0x12
  | 0x13 | 0x14 | 0x15 => rfl
  | _ + 0x19 => omega

/-- The six rows with a buffering operand read back their own header and operands, with either value of bit 7. -/
theorem readsBack_decodeOp_of_buffered {op : Nat} (hrow : op ∈ bufferedOps) (b : Bool) (operands : List Byte) :
    ReadsBack (header b (BitVec.ofNat 8 op) :: operands) (decodeOp op b operands) := by
  simp only [bufferedOps, List.mem_cons, List.not_mem_nil, or_false] at hrow
  obtain rfl | rfl | rfl | rfl | rfl | rfl := hrow
  · exact readsBack_operandsV (fun _ => ⟨rfl, rfl⟩) operands
  · exact @readsBack_operandsS _ (.write b) (fun _ hlen => ⟨decide_eq_true hlen, rfl⟩) operands
  · exact readsBack_operandsP (fun _ _ => ⟨rfl, rfl⟩) operands
  all_goals exact readsBack_operandsV (fun _ => ⟨rfl, rfl⟩) operands

/-- The other rows read back their own header and operands, with bit 7 clear. -/
theorem readsBack_decodeOp_of_not_buffered {op : Nat} (hop : op < 0x19) (hrow : op ∉ bufferedOps)
    (operands : List Byte) :
    ReadsBack (header false (BitVec.ofNat 8 op) :: operands) (decodeOp op false operands) := by
  match op with
  | 0x01 | 0x02 | 0x03 | 0x16 | 0x17 | 0x18 => exact absurd (by decide) hrow
  | 0x00 => exact readsBack_operandsI (fun _ _ _ => ⟨rfl, rfl⟩) operands
  | 0x14 => exact readsBack_operandsG (fun _ _ => ⟨rfl, rfl⟩) operands
  | 0x04 | 0x05 | 0x06 | 0x07 | 0x08 | 0x09 | 0x0A | 0x0B | 0x0C | 0x0D | 0x0E | 0x0F | 0x10 | 0x11 | 0x12 | 0x13
  | 0x15 => exact readsBack_operandsN ⟨rfl, rfl⟩ operands
  | _ + 0x19 => omega

theorem readsBack_decodeOp {op : Nat} {b : Bool} (hop : op < 0x19) (hbuf : b = true → op ∈ bufferedOps)
    (operands : List Byte) : ReadsBack (header b (BitVec.ofNat 8 op) :: operands) (decodeOp op b operands) := by
  by_cases hrow : op ∈ bufferedOps
  · exact readsBack_decodeOp_of_buffered hrow b operands
  · obtain rfl : b = false := Bool.eq_false_iff.mpr fun hb => hrow (hbuf hb)
    exact readsBack_decodeOp_of_not_buffered hop hrow operands

theorem Selects.readsBack {h : Byte} (hsel : Selects h) (operands : List Byte) :
    ReadsBack (h :: operands) (decode (h :: operands)) := by
  have hread := readsBack_decodeOp hsel.op hsel.buffering operands
  rwa [← header_of_fields h hsel.reserved, ← decode_of_reserved_eq hsel.reserved] at hread

/-- Behind a header that selects an operation only missing operand bytes are rejected (30_encoding R75). -/
theorem Selects.truncated_or_op {h : Byte} (hsel : Selects h) (operands : List Byte) :
    decode (h :: operands) = .error .truncated ∨
      ∃ i rest, decode (h :: operands) = .ok (i, rest) ∧ WellFormed i = true ∧ h :: operands = encode i ++ rest := by
  have hread := hsel.readsBack operands
  cases hdec : decode (h :: operands) with
  | error why =>
    rw [hdec] at hread
    exact .inl (congrArg Except.error hread)
  | ok answer =>
    rw [hdec] at hread
    exact .inr ⟨answer.1, answer.2, rfl, hread⟩

/-- An operation is read only behind a header that selects one: every other header is rejected whatever follows it. -/
theorem selects_of_decode {h : Byte} {operands rest : List Byte} {i : Instr}
    (hdec : decode (h :: operands) = .ok (i, rest)) : Selects h := by
  have hreserved : headerReserved h = 0 := by
    by_contra hne
    simp [decode_of_reserved_ne hne] at hdec
  rw [decode_of_reserved_eq hreserved] at hdec
  have hop : headerOp h < 0x19 := by
    by_contra hge
    simp [decodeOp_of_reservedOp (not_lt.mp hge)] at hdec
  refine ⟨hreserved, hop, fun hb => ?_⟩
  by_contra hbuf
  simp [hb, decodeOp_of_not_buffered hop hbuf] at hdec

/-- Settles O2: the header selected the operation, so the whole answer reads back. -/
theorem decodedBytesAreEncoded : Obligations.DecodedBytesAreEncoded := by
  intro bytes rest i hdec
  cases bytes with
  | nil => cases hdec
  | cons h operands =>
    have hread := (selects_of_decode hdec).readsBack operands
    rwa [hdec] at hread

theorem encode_ne_nil (i : Instr) : encode i ≠ [] := by
  cases i <;> exact List.cons_ne_nil _ _

/-- Settles O4: the decoder's three checks of a header in their order; past them all, the answer reads back. -/
theorem reservedHeadersRejected : Obligations.ReservedHeadersRejected := by
  intro h rest
  obtain ⟨hbits, hnumber, hbit7⟩ := header_fields h
  rw [hnumber, hbit7]
  split_ifs with hreserved hop hbuf
  · exact decode_of_reserved_ne (hbits.mp hreserved) rest
  all_goals have hzero : headerReserved h = 0 := not_not.mp (mt hbits.mpr hreserved)
  · rw [decode_of_reserved_eq hzero, decodeOp_of_reservedOp hop]
  · obtain ⟨hb, hrow⟩ := hbuf
    rw [decode_of_reserved_eq hzero, hb, decodeOp_of_not_buffered (not_le.mp hop) hrow]
  · have hsel : Selects h := ⟨hzero, not_le.mp hop, fun hb => not_not.mp fun hrow => hbuf ⟨hb, hrow⟩⟩
    rcases hsel.truncated_or_op rest with htruncated | ⟨i, tail, hdec, -, hbytes⟩
    · exact .inl htruncated
    · refine .inr ⟨i, tail, hdec, ?_⟩
      rw [← List.head?_append_of_ne_nil _ (encode_ne_nil i), ← hbytes, List.head?_cons]

/-- No encoding stands at the front of another: two readings of the same bytes agree. -/
theorem eq_of_encode_append_eq {i j : Instr} {xs ys : List Byte} (hi : WellFormed i = true) (hj : WellFormed j = true)
    (h : encode i ++ xs = encode j ++ ys) : i = j ∧ xs = ys := by
  have hdec : Except.ok (i, xs) = (.ok (j, ys) : Decoded) := by
    rw [← decodeOfEncode i xs hi, ← decodeOfEncode j ys hj, h]
  simpa using hdec

/-- Settles O5: the front starts with a header that selects an operation, so it is truncated or starts with a whole
encoding; and no encoding stands at the front of another but itself. -/
theorem truncatedStreamRejected : Obligations.TruncatedStreamRejected := by
  intro i front hwf hfront hne hproper
  obtain ⟨more, hmore⟩ := hfront
  obtain ⟨h, operands, rfl⟩ := List.exists_cons_of_ne_nil hne
  have hwhole : decode (h :: (operands ++ more)) = .ok (i, []) := by
    rw [← List.cons_append, hmore, ← List.append_nil (encode i)]
    exact decodeOfEncode i [] hwf
  rcases (selects_of_decode hwhole).truncated_or_op operands with htruncated | ⟨j, rest, -, hj, hbytes⟩
  · exact htruncated
  · have hsame : encode i ++ [] = encode j ++ (rest ++ more) := by
      rw [List.append_nil, ← hmore, hbytes, List.append_assoc]
    obtain ⟨rfl, hnil⟩ := eq_of_encode_append_eq hwf hj hsame
    obtain ⟨rfl, -⟩ := List.nil_eq_append_iff.mp hnil
    exact absurd (by rw [hbytes, List.append_nil]) hproper

end Sys2Proof
end

section
/-! PROOF. The bit fields of an emitted byte under CFG0 (30_encoding R61 to R65). -/

namespace Sys2Proof.Machine

/-- Bits 3:0 of an emitted byte under CFG0: backlight, enable, read/write 0 and register select (30_encoding R61). -/
def controlNibble (bl : Bool) (en : BitVec 1) (m : Mode) : BitVec 4 :=
  (if bl then 1#1 else 0#1) ++ en ++ 0#1 ++ (if m = .data then 1#1 else 0#1)

/-- A nibble over `controlNibble` is the byte that is written out field by field. -/
theorem append_controlNibble (n : BitVec 4) (bl : Bool) (en : BitVec 1) (m : Mode) :
    n ++ controlNibble bl en m =
      n ++ (if bl then 1#1 else 0#1) ++ en ++ 0#1 ++ (if m = .data then 1#1 else 0#1) := by
  simp only [controlNibble, BitVec.append_assoc, BitVec.cast_eq]

theorem modeByte_cfg0 (bl : Bool) (m : Mode) : modeByte Config.cfg0 bl m = 0#4 ++ controlNibble bl 0 m := by
  cases bl <;> cases m <;> rfl

theorem strobed_cfg0 (n : BitVec 4) (bl : Bool) (m : Mode) :
    strobed Config.cfg0 (n ++ controlNibble bl 0 m) = n ++ controlNibble bl 1 m := by
  have hlow : controlNibble bl 0 m ||| 4#4 = controlNibble bl 1 m := by cases bl <;> cases m <;> rfl
  calc strobed Config.cfg0 (n ++ controlNibble bl 0 m)
      = (n ||| 0#4) ++ (controlNibble bl 0 m ||| 4#4) := @BitVec.or_append _ _ n 0#4 _ 4#4
    _ = n ++ controlNibble bl 1 m := by rw [BitVec.or_zero, hlow]

theorem and_high_eq_append (v : Byte) : v &&& 0xF0 = v.extractLsb' 4 4 ++ 0#4 := by
  ext k hk
  rw [BitVec.getElem_append]
  interval_cases k <;> simp

theorem high_extract_shiftLeft (v : Byte) : (v <<< 4).extractLsb' 4 4 = v.extractLsb' 0 4 := by
  ext k hk
  interval_cases k <;> simp

theorem hiNibble_cfg0 (bl : Bool) (v : Byte) (m : Mode) :
    hiNibble Config.cfg0 bl v m = v.extractLsb' 4 4 ++ controlNibble bl 0 m := by
  calc hiNibble Config.cfg0 bl v m
      = (v &&& 0xF0) ||| modeByte Config.cfg0 bl m := BitVec.or_assoc ..
    _ = (v.extractLsb' 4 4 ||| 0#4) ++ (0#4 ||| controlNibble bl 0 m) := by
        rw [and_high_eq_append, modeByte_cfg0]
        exact BitVec.or_append
    _ = v.extractLsb' 4 4 ++ controlNibble bl 0 m := by rw [BitVec.or_zero, BitVec.zero_or]

/-- `LO(v, m)` is `HI` of `v` moved up by one nibble (30_encoding R63). -/
theorem loNibble_cfg0 (bl : Bool) (v : Byte) (m : Mode) :
    loNibble Config.cfg0 bl v m = v.extractLsb' 0 4 ++ controlNibble bl 0 m := by
  rw [← high_extract_shiftLeft]
  exact hiNibble_cfg0 bl (v <<< 4) m

/-- Settles O46: each byte is a nibble over the control nibble, and the strobe sets the enable bit alone. -/
theorem emittedByteLayout : Obligations.EmittedByteLayout := by
  intro bl v m
  refine ⟨?hi, ?lo, ?strobed, ?mode⟩
  case hi => exact (hiNibble_cfg0 bl v m).trans (append_controlNibble _ bl 0 m)
  case lo => exact (loNibble_cfg0 bl v m).trans (append_controlNibble _ bl 0 m)
  case strobed => rw [hiNibble_cfg0, strobed_cfg0]; exact append_controlNibble _ bl 1 m
  case mode => exact (modeByte_cfg0 bl m).trans (append_controlNibble _ bl 0 m)

end Sys2Proof.Machine
end

section
/-! PROOF. The primitives and the flush: SENDCMD, SENDDATA, WRITEBYTE and SHOW on an initialised Session
(40_encoder_primitives R91 to R103). -/

namespace Sys2Proof.Machine

open Sys2Proof.Claims

/-! ### One transfer in the buffer or in its block write -/

/-- A buffered transfer stands whole at the end of the pending bytes. -/
theorem State.afterTransfer_true_buf (s : State) (v : Byte) (m : Mode) :
    ∃ ahead, (s.afterTransfer v m true).buf = ahead ++ logicalTransfer s.cfg s.bl s.lastMode v m := ⟨_, rfl⟩

/-- An unbuffered transfer stands whole at the end of the last block write. -/
theorem State.afterTransfer_false_out (s : State) (v : Byte) (m : Mode) :
    ∃ earlier ahead, (s.afterTransfer v m false).out =
      earlier ++ [.bw s.addr (ahead ++ logicalTransfer s.cfg s.bl s.lastMode v m)] := ⟨_, _, rfl⟩

/-- A buffered transfer sends nothing but the implicit flush of its room check (40_encoder_primitives R93). -/
theorem State.afterTransfer_true_out (s : State) (v : Byte) (m : Mode) :
    (s.afterTransfer v m true).out =
      if s.fill + 5 ≤ s.cfg.cap then s.out else s.out ++ [.bw s.addr s.buf] := by
  simp [State.afterTransfer, State.afterBytes]

/-! ### The operations in closed form -/

/-- SENDCMD and SENDDATA are one logical transfer in their mode (40_encoder_primitives R101, R102). -/
theorem exec_send {s : State} (hs : s.Ready) (m : Mode) (b : Bool) (v : Byte) :
    exec (send m b v) s = .next (s.afterTransfer v m b) := by
  cases m with
  | cmd => exact exec_of_leaves nofun hs rfl
  | data => exact exec_of_leaves nofun hs rfl

theorem exec_writeByte_ready {s : State} (hs : s.Ready) (b : Bool) (v : Byte) :
    exec (.writeByte b v) s = .next (s.afterRaw v b) :=
  exec_of_leaves nofun hs rfl

theorem exec_showBuffer_ready {s : State} (hs : s.Ready) : exec .showBuffer s = .next (s.afterShow.deliver s.fill) :=
  exec_of_leaves nofun hs rfl

/-- Whatever operation completes keeps CFG and leaves INITSTATE at Cleared, so the next one is admitted too. -/
theorem ready_after_exec {i : Instr} {s t : State} (h : exec i s = .next t) : t.Ready :=
  ⟨(emits_of_exec h).cfg_eq ▸ wf_of_exec_next h, cleared_of_exec h⟩

/-- SHOW with nothing pending moves nothing. -/
theorem State.afterShow_of_buf_eq_nil {s : State} (h : s.buf = []) : s.afterShow = s := by
  ext1 <;> simp [State.afterShow, h]

/-- Settles O18: `afterShow` with nothing and with something pending; `resultsAfter` appends only for SHOW. -/
theorem showFlushes : Obligations.ShowFlushes := by
  refine ⟨fun s hs => ⟨rfl, ?flush⟩, fun i s t hi h => ?others⟩
  case flush =>
    rw [exec_showBuffer_ready hs]
    by_cases hbuf : s.buf = []
    · have hfill : s.fill = 0 := List.length_eq_zero_iff.mpr hbuf
      rw [State.afterShow_of_buf_eq_nil hbuf, if_pos hbuf, hfill]
      rfl
    · rw [State.afterShow, if_neg hbuf, if_neg hbuf]
      rfl
  case others =>
    obtain ⟨-, -, -, hresults⟩ := environmentFrame i s t h
    rw [hresults, if_neg hi, List.append_nil]

/-- Settles O19: `exec_send` in each mode; SENDDATA and WRITECHAR run the same procedure. -/
theorem sendPrimitivesTransfer : Obligations.SendPrimitivesTransfer := by
  intro b v s hs
  refine ⟨exec_send hs .cmd b v, exec_send hs .data b v, rfl, ?cmdWords, ?dataWords⟩
  case cmdWords => cases b <;> rfl
  case dataWords => cases b <;> rfl

/-- Settles O20: `exec_writeByte_ready`, and the header under each value of B. -/
theorem writeByteAppendsRaw : Obligations.WriteByteAppendsRaw := by
  intro b v s hs
  refine ⟨exec_writeByte_ready hs b v, ?words⟩
  cases b <;> rfl

/-! ### Two transfers with no transfer between them -/

/-- A transfer adds 4 bytes in the mode LASTMODE holds and 5 in another (40_encoder_primitives R94). -/
theorem State.full_length_afterTransfer (s : State) (v : Byte) (m : Mode) (buf : Bool) :
    (s.afterTransfer v m buf).full.length = s.full.length + (if s.lastMode = some m then 4 else 5) := by
  rw [State.full_afterTransfer, List.length_append, logicalTransfer_length]

/-- SHOW, a raw byte and a backlight change complete and leave LASTMODE alone (40_encoder_primitives R91, R92,
43_feature_toggles R153). -/
theorem exists_exec_lastMode_eq {mid : Instr} {s : State} (hs : s.Ready)
    (hmid : mid = .showBuffer ∨ mid = .backlight ∨ mid = .noBacklight ∨ ∃ c w, mid = .writeByte c w) :
    ∃ t, exec mid s = .next t ∧ t.lastMode = s.lastMode := by
  rcases hmid with rfl | rfl | rfl | ⟨c, w, rfl⟩
  · exact ⟨_, exec_showBuffer_ready hs, rfl⟩
  · exact ⟨_, exec_of_leaves nofun hs rfl, rfl⟩
  · exact ⟨_, exec_of_leaves nofun hs rfl, rfl⟩
  · exact ⟨_, exec_writeByte_ready hs c w, rfl⟩

/-- Settles O21: the first transfer leaves its mode in LASTMODE, what stands between keeps it there, and the second
compares its own mode with it. -/
theorem modeByteOnlyOnChange : Obligations.ModeByteOnlyOnChange := by
  intro m m' b b' v v' mid s hs hmid
  have hfirst := exec_send hs m b v
  obtain ⟨u, hbetween, hlast⟩ := exists_exec_lastMode_eq (ready_after_exec hfirst) hmid
  refine ⟨_, u, _, hfirst, hbetween, exec_send (ready_after_exec hbetween) m' b' v', ?_, rfl⟩
  rw [State.full_length_afterTransfer, hlast, State.afterTransfer_lastMode]
  simp only [Option.some.injEq]

/-! ### One transfer and the block writes -/

/-- Settles O22: a transfer is one unit, which stays whole in the buffer or in the block write that flushes it. -/
theorem transferNeverSplit : Obligations.TransferNeverSplit := by
  intro m b v s hs
  have hsend := exec_send hs m b v
  cases b with
  | true =>
    obtain ⟨ahead, hbuf⟩ := s.afterTransfer_true_buf v m
    exact ⟨_, ahead, hsend, hbuf⟩
  | false =>
    obtain ⟨earlier, ahead, hout⟩ := s.afterTransfer_false_out v m
    exact ⟨_, ahead, hsend, earlier, rfl, hout⟩

/-- Settles O23: the room check asks for 5 bytes, so it fails only where FILL is at least CAP - 4. -/
theorem implicitFlushIsNearlyFull : Obligations.ImplicitFlushIsNearlyFull := by
  intro m v s hs hfill
  refine ⟨_, exec_send hs m true v, ?_⟩
  rw [State.afterTransfer_true_out]
  by_cases hroom : s.fill + 5 ≤ s.cfg.cap
  · exact .inl (if_pos hroom)
  · exact .inr ⟨if_neg hroom, by omega, hfill⟩

end Sys2Proof.Machine
end

section
/-! PROOF. Text, cursor, clear and home on an initialised Session (41_text_cursor R110 to R116). -/

namespace Sys2Proof.Machine

open Sys2Proof.Claims

/-! ### Characters -/

theorem exec_write_ready {s : State} (hs : s.Ready) (b : Bool) (data : List Byte) :
    exec (.write b data) s = .next (if b then s.afterData data else (s.afterData data).afterShow) :=
  exec_of_leaves nofun hs rfl

/-- Settles O24: both closed forms are what `Leaves` lists for the two operations. -/
theorem characterWrites : Obligations.CharacterWrites := by
  intro b c data s hs
  exact ⟨exec_of_leaves nofun hs rfl, exec_write_ready hs b data⟩

/-- DATA transfers in a row change mode at most once, at the first (40_encoder_primitives R95). -/
theorem State.full_length_afterData (s : State) (data : List Byte) :
    (s.afterData data).full.length =
      s.full.length + 4 * data.length + (if data ≠ [] ∧ s.lastMode ≠ some .data then 1 else 0) := by
  induction data generalizing s with
  | nil => simp
  | cons d rest ih =>
    rw [State.afterData_cons, ih, State.full_length_afterTransfer, State.afterTransfer_lastMode]
    simp only [List.length_cons, ne_eq, reduceCtorEq, not_true, not_false_iff, and_false, true_and, if_false, ite_not]
    split_ifs <;> omega

/-- Settles O25: the count of `full_length_afterData`, which the flush does not change and after which nothing is
pending. -/
theorem writeByteCount : Obligations.WriteByteCount := by
  intro b data s hs
  refine ⟨_, exec_write_ready hs b data, ?_⟩
  have hcount := s.full_length_afterData data
  cases b with
  | true => exact ⟨hcount, nofun⟩
  | false => exact ⟨(congrArg List.length (State.full_afterShow _)).trans hcount, fun _ => rfl⟩

/-! ### The cursor -/

/-- SETCURSOR sends where its clamped operands have an address. -/
theorem exec_setCursor_of_some {s : State} (hs : s.Ready) (b : Bool) {line position : Byte} {a : BitVec 7}
    (h : ddramAddress s.cfg (min line.toNat (s.rows - 1)) (min position.toNat (s.cols - 1)) = some a) :
    exec (.setCursor b line position) s = .next (s.afterTransfer (cursorCommand s line position) .cmd b) := by
  rw [cursorCommand, ← setDdramCommand_of_ddramAddress h]
  exact exec_of_leaves nofun hs ⟨a, h, rfl⟩

/-- SETCURSOR stops where its clamped operands have no address (log entry 8). -/
theorem exec_setCursor_of_none {s : State} (hs : s.Ready) (b : Bool) {line position : Byte}
    (h : ddramAddress s.cfg (min line.toNat (s.rows - 1)) (min position.toNat (s.cols - 1)) = none) :
    exec (.setCursor b line position) s = .fault .noDisplayAddress := by
  rw [exec_setCursor, State.admitted_of_ready hs, State.setCursorProc, clampIndex, clampIndex, h]

/-- No address: the line is not in the table, or the target leaves 7 bits (41_text_cursor R114). -/
theorem ddramAddress_eq_none_iff {c : Config} {line position : Nat} :
    ddramAddress c line position = none ↔
      4 ≤ line ∨ 0x7F < (c.rowBase[line]?.getD 0).toNat + position := by
  by_cases hline : line < 4
  · have hbase : c.rowBase[line]? = some c.rowBase[line] := Vector.getElem?_eq_getElem hline
    simp only [ddramAddress, hbase, Option.getD_some, ite_eq_right_iff, reduceCtorEq, imp_false]
    omega
  · have hbase : c.rowBase[line]? = none := Vector.getElem?_eq_none (by omega)
    simp only [ddramAddress, hbase, true_iff]
    exact .inl (by omega)

/-- Settles O26: `target_le` keeps the clamped operands of a legal Session inside the table and 7 bits. -/
theorem setCursorSendsAddress : Obligations.SetCursorSendsAddress := by
  intro b line position s hs hlegal
  obtain ⟨hline, htarget⟩ := hlegal.target_le hs.1 line.toNat position.toNat
  refine ⟨exec_setCursor_of_some hs b (ddramAddress_of_le hline htarget), hline, ?_⟩
  rw [Vector.getElem?_eq_getElem (show min line.toNat (s.rows - 1) < 4 from hline)]
  exact htarget

/-- Settles O27: SETCURSOR faults exactly where `ddramAddress` names nothing. -/
theorem setCursorFaultsOutsideTable : Obligations.SetCursorFaultsOutsideTable := by
  intro b line position s hs
  rw [← ddramAddress_eq_none_iff]
  refine ⟨fun hfault => ?_, exec_setCursor_of_none hs b⟩
  by_contra hsome
  obtain ⟨a, ha⟩ := Option.ne_none_iff_exists'.mp hsome
  rw [exec_setCursor_of_some hs b ha] at hfault
  cases hfault

/-! ### Clear and home -/

/-- Settles O29: the closed form of CLEAR in `Leaves`. -/
theorem clearSendsAndWaits : Obligations.ClearSendsAndWaits :=
  fun _ hs => exec_of_leaves nofun hs rfl

/-- Settles O30: HOME's one word, and its closed form in `Leaves`. -/
theorem homeSendsAndWaits : Obligations.HomeSendsAndWaits :=
  fun _ hs => ⟨rfl, exec_of_leaves nofun hs rfl⟩

end Sys2Proof.Machine
end

section
/-! PROOF. The glyph load: CREATECHAR on an initialised Session (42_glyphs R130). -/

namespace Sys2Proof.Machine

open Sys2Proof.Claims

/-- CREATECHAR in the statements' commands: the clamped slot's CGRAM select, the rows, and the home to `ROWBASE[0]`. -/
theorem exec_createChar_glyphLoad {s : State} (hs : s.Ready) (slot : Byte) (g : Glyph) :
    exec (.createChar slot g) s = .next (((s.afterTransfer (glyphCommand s.cfg slot) .cmd true).afterData
      g.rows).afterTransfer (s.cfg.cSetDdram ||| cursorTarget s.cfg 0 0) .cmd false) := by
  rw [exec_createChar_ready hs, setCgramCommand_eq_glyphCommand,
    setDdramCommand_of_ddramAddress (ddramAddress_zero s.cfg)]

/-- Of the ten transfers the first row and the home always carry a mode byte, and the select does where LASTMODE was not
CMD. -/
theorem State.full_length_glyphLoad (s : State) (select home : Byte) (g : Glyph) :
    (((s.afterTransfer select .cmd true).afterData g.rows).afterTransfer home .cmd false).full.length =
      s.full.length + (if s.lastMode = some .cmd then 42 else 43) := by
  have hrows : ((s.afterTransfer select .cmd true).afterData g.rows).full.length =
      (s.afterTransfer select .cmd true).full.length + 33 :=
    State.full_length_afterData _ g.rows
  have hmode : ((s.afterTransfer select .cmd true).afterData g.rows).lastMode = some .data :=
    State.afterData_lastMode _ g.rows
  rw [State.full_length_afterTransfer, hmode, if_neg (by decide), hrows, State.full_length_afterTransfer]
  split <;> rfl

/-- Settles O31: the closed form and the count of the glyph load, whose last transfer is unbuffered. -/
theorem createCharLoadsGlyph : Obligations.CreateCharLoadsGlyph :=
  fun slot g s hs => ⟨rfl, _, exec_createChar_glyphLoad hs slot g, rfl, s.full_length_glyphLoad _ _ g, rfl⟩

end Sys2Proof.Machine
end

section
/-! PROOF. The feature toggles, the scrolls and the backlight on an initialised Session (43_feature_toggles R140 to
R155). -/

namespace Sys2Proof.Machine

open Sys2Proof.Claims

/-! ### The operations in closed form, one lemma per family -/

/-- A display toggle writes its bit of DCTL, then sends the whole flag byte (43_feature_toggles R140). -/
theorem exec_displayToggle {i : Instr} {s : State} (hs : s.Ready) (hi : i ∈ displayToggles) :
    exec i s = .next (({ s with dctl := dctlAfter s.dctl i } : State).afterTransfer
      (s.cfg.cDisplayCtl ||| dctlAfter s.dctl i) .cmd false) := by
  cases i with
  | display | noDisplay | cursor | noCursor | blink | noBlink => exact exec_of_leaves nofun hs rfl
  | _ => simp [displayToggles] at hi

/-- An entry-mode toggle writes its bit of EMODE, then sends the whole flag byte (43_feature_toggles R140). -/
theorem exec_entryToggle {i : Instr} {s : State} (hs : s.Ready) (hi : i ∈ entryToggles) :
    exec i s = .next (({ s with emode := emodeAfter s.emode i } : State).afterTransfer
      (s.cfg.cEntryMode ||| emodeAfter s.emode i) .cmd false) := by
  cases i with
  | autoscroll | noAutoscroll | leftToRight | rightToLeft => exact exec_of_leaves nofun hs rfl
  | _ => simp [entryToggles] at hi

theorem exec_scrollLeft_ready {s : State} (hs : s.Ready) :
    exec .scrollLeft s = .next (s.afterTransfer (s.cfg.cShift ||| 0x08) .cmd false) :=
  exec_of_leaves nofun hs rfl

theorem exec_scrollRight_ready {s : State} (hs : s.Ready) :
    exec .scrollRight s = .next (s.afterTransfer (s.cfg.cShift ||| 0x08 ||| 0x04) .cmd false) :=
  exec_of_leaves nofun hs rfl

/-! ### What all twelve have in common -/

/-- Whatever flag register it writes first, a toggle or a scroll is one unbuffered CMD transfer. -/
theorem exists_exec_toggle_eq {i : Instr} {s : State} (hs : s.Ready)
    (hi : i ∈ displayToggles ++ entryToggles ++ scrolls) :
    ∃ dctl emode v, exec i s =
      .next (({ s with dctl := dctl, emode := emode } : State).afterTransfer v .cmd false) := by
  rw [List.mem_append, List.mem_append] at hi
  rcases hi with (hdisplay | hentry) | hscroll
  · exact ⟨_, s.emode, _, exec_displayToggle hs hdisplay⟩
  · exact ⟨s.dctl, _, _, exec_entryToggle hs hentry⟩
  · rcases List.mem_pair.mp hscroll with rfl | rfl
    · exact ⟨s.dctl, s.emode, _, exec_scrollLeft_ready hs⟩
    · exact ⟨s.dctl, s.emode, _, exec_scrollRight_ready hs⟩

/-- An unbuffered transfer leaves in the block write of the pending bytes, or in the next one where they leave no room for
5 bytes (40_encoder_primitives R93). -/
theorem State.afterTransfer_false_out_eq (s : State) (v : Byte) (m : Mode) :
    (s.afterTransfer v m false).out =
      if s.fill + 5 ≤ s.cfg.cap then s.out ++ [.bw s.addr (s.buf ++ logicalTransfer s.cfg s.bl s.lastMode v m)]
      else s.out ++ [.bw s.addr s.buf, .bw s.addr (logicalTransfer s.cfg s.bl s.lastMode v m)] := by
  by_cases hroom : s.fill + 5 ≤ s.cfg.cap
  · simp [State.afterTransfer, State.afterBytes, hroom]
  · simp [State.afterTransfer, State.afterBytes, hroom]

/-- Settles O36: the one transfer of `exists_exec_toggle_eq` is 4 or 5 bytes, and the room check places it. -/
theorem toggleIsNeverElided : Obligations.ToggleIsNeverElided := by
  intro i s hs hi
  obtain ⟨dctl, emode, v, hexec⟩ := exists_exec_toggle_eq hs hi
  exact ⟨_, logicalTransfer s.cfg s.bl s.lastMode v .cmd, hexec, logicalTransfer_length .., rfl, rfl,
    State.afterTransfer_false_out_eq { s with dctl := dctl, emode := emode } v .cmd⟩

/-! ### The single operations -/

/-- Settles O32: `exec_displayToggle` at each of the six, with their words. -/
theorem displayTogglesReemit : Obligations.DisplayTogglesReemit := by
  intro s hs sent
  have toggle {i : Instr} (hi : i ∈ displayToggles) : exec i s = .next (sent (dctlAfter s.dctl i)) :=
    exec_displayToggle hs hi
  exact ⟨⟨toggle (by decide), rfl⟩, ⟨toggle (by decide), rfl⟩, ⟨toggle (by decide), rfl⟩,
    ⟨toggle (by decide), rfl⟩, ⟨toggle (by decide), rfl⟩, ⟨toggle (by decide), rfl⟩⟩

/-- Settles O33: `exec_entryToggle` at each of the four, with their words. -/
theorem entryModeTogglesReemit : Obligations.EntryModeTogglesReemit := by
  intro s hs sent
  have toggle {i : Instr} (hi : i ∈ entryToggles) : exec i s = .next (sent (emodeAfter s.emode i)) :=
    exec_entryToggle hs hi
  exact ⟨⟨toggle (by decide), rfl⟩, ⟨toggle (by decide), rfl⟩, ⟨toggle (by decide), rfl⟩,
    ⟨toggle (by decide), rfl⟩⟩

/-- Settles O34: both shifts in closed form, with their words. -/
theorem scrollsSendShift : Obligations.ScrollsSendShift :=
  fun _ hs => ⟨⟨exec_scrollLeft_ready hs, rfl⟩, exec_scrollRight_ready hs, rfl⟩

/-- Settles O35: `Leaves` lists both backlight operations as BL's new value and one raw byte. -/
theorem backlightSendsOneByte : Obligations.BacklightSendsOneByte :=
  fun _ hs => ⟨exec_of_leaves nofun hs rfl, exec_of_leaves nofun hs rfl⟩

end Sys2Proof.Machine
end

section
/-! PROOF. INIT from every state: the Session it leaves, its whole trace where the configuration bytes fit in one block
write, and the addresses of its block writes (44_init R170 to R182). -/

namespace Sys2Proof.Machine

open Sys2Proof.Claims

/-! ### Completion and the Session -/

/-- INIT is admitted in every INITSTATE (44_init R170). -/
theorem exec_init_of_wf {s : State} (hwf : s.cfg.WF) (a c r : Byte) :
    exec (.init a c r) s = .next (s.supersede.resetSession a c r).powerOnSequence := by
  rw [exec_init, State.built_of_wf hwf]

/-- Settles O15: INIT completes, and a completed INIT writes the Session of `initialised` and OUT. -/
theorem initLeavesFreshSession : Obligations.InitLeavesFreshSession := fun a c r _ hwf =>
  have hexec := exec_init_of_wf hwf a c r
  ⟨_, hexec, exec_init_eq_initialised hexec⟩

/-! ### The trace -/

/-- What the supersession flush adds to OUT (44_init R171). -/
theorem State.supersede_out (s : State) :
    s.supersede.out = s.out ++ (if s.initState = .cleared ∧ s.buf ≠ [] then [.bw s.addr s.buf] else []) := by
  rw [State.supersede_eq]
  by_cases hlive : s.initState = .cleared
  · by_cases hbuf : s.buf = [] <;> simp [State.afterShow, hlive, hbuf]
  · simp [hlive]

/-- A buffered transfer with room left in the buffer emits nothing (40_encoder_primitives R93). -/
theorem State.afterTransfer_true_of_room {s : State} (v : Byte) (m : Mode) (hroom : s.fill + 5 ≤ s.cfg.cap) :
    s.afterTransfer v m true =
      { s with buf := s.buf ++ logicalTransfer s.cfg s.bl s.lastMode v m, lastMode := some m } := by
  simp [State.afterTransfer, State.afterBytes, hroom]

/-- Four CMD transfers on an empty buffer, the last unbuffered, leave in one block write where CAP is at least 18: the
first three are at most 13 bytes, and the room check of the last asks for 5 more. -/
theorem State.four_transfers_out {s : State} (hcap : 18 ≤ s.cfg.cap) (hbuf : s.buf = []) (v₁ v₂ v₃ v₄ : Byte) :
    ((((s.afterTransfer v₁ .cmd true).afterTransfer v₂ .cmd true).afterTransfer v₃ .cmd true).afterTransfer
      v₄ .cmd false).out = s.out ++ [.bw s.addr (logicalTransfers s.cfg s.bl s.lastMode
        [(.cmd, v₁), (.cmd, v₂), (.cmd, v₃), (.cmd, v₄)])] := by
  have hfirst : (logicalTransfer s.cfg s.bl s.lastMode v₁ .cmd).length ≤ 5 := by
    rw [logicalTransfer_length]
    split <;> decide
  have hnext (v : Byte) : (logicalTransfer s.cfg s.bl (some .cmd) v .cmd).length = 4 := logicalTransfer_length ..
  rw [State.afterTransfer_true_of_room v₁ .cmd (by simp [State.fill, hbuf]; omega),
    State.afterTransfer_true_of_room v₂ .cmd (by simp [State.fill, hbuf]; omega),
    State.afterTransfer_true_of_room v₃ .cmd (by simp [State.fill, hbuf, hnext]; omega),
    State.afterTransfer_false_out_eq, if_pos (by simp [State.fill, hbuf, hnext]; omega)]
  simp [hbuf, logicalTransfers]

/-- The trace of the power-on sequence where the configuration bytes fit in one block write (44_init R175 to R178). -/
theorem State.powerOnSequence_out {s : State} (hcap : 18 ≤ s.cfg.cap) (hbuf : s.buf = []) :
    s.powerOnSequence.out = s.out ++ s.syncEvents ++ [.bw s.addr (logicalTransfers s.cfg s.bl s.lastMode
      [(.cmd, s.cfg.cEntryMode ||| s.emode), (.cmd, s.cfg.cFunctionSet ||| s.fset),
        (.cmd, s.cfg.cDisplayCtl ||| s.dctl), (.cmd, s.cfg.cClear)]), .dly s.cfg.tClear] := by
  have hfour := State.four_transfers_out (s := { s with out := s.out ++ s.syncEvents }) hcap hbuf
    (s.cfg.cEntryMode ||| s.emode) (s.cfg.cFunctionSet ||| s.fset) (s.cfg.cDisplayCtl ||| s.dctl) s.cfg.cClear
  rw [State.powerOnSequence_eq s (by omega) hbuf, State.enter, State.afterDelay_out, hfour, List.append_assoc]
  rfl

/-- From the reset registers the power-on sequence emits `initEvents` to the new address
(44_init R172, R175 to R178). -/
theorem State.powerOnSequence_resetSession_out {s : State} (hcap : 18 ≤ s.cfg.cap) (a c r : Byte) :
    (s.resetSession a c r).powerOnSequence.out = s.out ++ initEvents s.cfg a (geometry r s.cfg.maxRows) := by
  rw [State.powerOnSequence_out (s := s.resetSession a c r) hcap rfl, List.append_assoc]
  rfl

/-- Settles O16: the supersession flush, then the power-on sequence from the reset registers. -/
theorem initTrace : Obligations.InitTrace := by
  intro a c r s hwf hcap
  have hexec := exec_init_of_wf hwf a c r
  rw [hexec, exec_init_eq_initialised hexec, State.powerOnSequence_resetSession_out (by simpa using hcap),
    State.supersede_out, State.supersede_cfg]

/-! ### The addresses -/

/-- Settles O17: the supersession flush is the one block write before the register reset, and `Sent` holds every later
one to the new ADDR. -/
theorem supersededBytesGoToOldAddress : Obligations.SupersededBytesGoToOldAddress := by
  intro a c r s ⟨hwf, hcleared⟩ hbuf
  have hsent := State.sent_powerOnSequence (s := s.supersede.resetSession a c r) (by simpa using hwf.1) rfl
  obtain ⟨es, hout, hfits⟩ := hsent.out_eq
  refine ⟨_, es, exec_init_of_wf hwf a c r, ?_, fun d bytes hmem => (hfits _ hmem d bytes rfl).1⟩
  rw [hout, State.resetSession_out, State.supersede_out, if_pos ⟨hcleared, hbuf⟩, List.append_assoc]
  rfl

end Sys2Proof.Machine
end

section
/-! PROOF. The checks before an operation (60_exceptions R195, R196): what each refuses, what a refused operation leaves,
and that behind them nothing stops (R190). -/

namespace Sys2Proof.Machine

open Sys2Proof.Claims

/-! ### What the checks refuse -/

/-- The machine is not built for an ill-formed CFG (log entry 6). -/
theorem State.built_of_not_wf {s : State} (h : ¬ s.cfg.WF) (run : State → Answer) :
    s.built run = .refused .illFormedConfig := if_neg h

theorem State.admitted_of_not_wf {s : State} (h : ¬ s.cfg.WF) (run : State → Answer) :
    s.admitted run = .refused .illFormedConfig := State.built_of_not_wf h _

theorem State.admitted_of_not_cleared {s : State} (hwf : s.cfg.WF) (h : s.initState ≠ .cleared) (run : State → Answer) :
    s.admitted run = .refused .uninitialised :=
  (State.built_of_wf hwf _).trans (if_neg h)

theorem exec_of_not_wf {s : State} (h : ¬ s.cfg.WF) (i : Instr) : exec i s = .refused .illFormedConfig := by
  by_cases hi : IsInit i
  · obtain ⟨a, c, r, rfl⟩ := hi
    rw [exec_init, State.built_of_not_wf h]
  · obtain ⟨run, hrun⟩ := exec_eq_admitted i (ne_init_of_not_isInit hi)
    rw [hrun, State.admitted_of_not_wf h]

theorem exec_of_not_cleared {i : Instr} {s : State} (hwf : s.cfg.WF) (h : s.initState ≠ .cleared) (hi : ¬ IsInit i) :
    exec i s = .refused .uninitialised := by
  obtain ⟨run, hrun⟩ := exec_eq_admitted i (ne_init_of_not_isInit hi)
  rw [hrun, State.admitted_of_not_cleared hwf h]

/-- Settles O8: INIT stands behind the configuration check, every other operation behind both. -/
theorem unadmittedOperationsRefused : Obligations.UnadmittedOperationsRefused :=
  fun i _ => ⟨fun hwf => exec_of_not_wf hwf i, exec_of_not_cleared⟩

/-! ### The step before an operation -/

theorem step_of_not_wf {s : State} (h : ¬ s.cfg.WF) : step s = .refused .illFormedConfig := State.built_of_not_wf h _

theorem step_of_idle {s : State} (hwf : s.cfg.WF) (hport : s.port = []) : step s = .next s := by
  rw [step, State.built_of_wf hwf, hport, fetch]

theorem step_of_reject {s : State} {why : Reject} (hwf : s.cfg.WF) (hport : s.port ≠ [])
    (hdec : decode s.port = .error why) : step s = .refused (.invalidEncoding why) := by
  rw [step, State.built_of_wf hwf, fetch_of_reject hport hdec]

/-- Settles O7: one equation of the step for each check, with the configuration in front. -/
theorem stepChecksInOrder : Obligations.StepChecksInOrder :=
  fun _ => ⟨step_of_not_wf, step_of_idle, fun _ => step_of_reject⟩

/-! ### The mark -/

theorem step_of_not_cleared {s : State} {i : Instr} {rest : List Byte} (hwf : s.cfg.WF) (h : s.initState ≠ .cleared)
    (hi : ¬ IsInit i) (hdec : decode s.port = .ok (i, rest)) :
    step s = .next { s with port := rest, containsRefusal := true } := by
  have hrefused : exec i (s.withPort rest) = .refused .uninitialised := exec_of_not_cleared hwf h hi
  rw [step_of_decode hwf hdec, hrefused, settle_of_uninitialised]
  rfl

/-- The mark goes through an idle step and through an operation, and a refusal sets it. -/
theorem step_keeps_mark {s t : State} (h : step s = .next t) (hmark : s.containsRefusal = true) :
    t.containsRefusal = true := by
  obtain ⟨-, ⟨-, rfl⟩ | ⟨i, rest, -, hexec | ⟨-, rfl⟩⟩⟩ := step_next h
  case inl => exact hmark
  case inr.inl =>
    obtain ⟨-, -, hkept, -⟩ := environmentFrame i _ t hexec
    exact hkept.trans hmark
  case inr.inr => rfl

/-- Settles O9: the refused operation's step, and the mark through every step. -/
theorem uninitialisedStepOnlyMarks : Obligations.UninitialisedStepOnlyMarks :=
  ⟨fun _ _ _ => step_of_not_cleared, fun _ _ => step_keeps_mark⟩

/-! ### Behind the checks nothing stops -/

/-- Settles O12: an admitted operation completes, and a completed one leaves an initialised Session. -/
theorem everyOperationCompletes : Obligations.EveryOperationCompletes := by
  intro i s hs hadmitted
  obtain ⟨t, h⟩ := exec_completes hs hadmitted
  exact ⟨t, h, cleared_of_exec h⟩

/-- Under the invariant an operation completes or is refused, so it does not fault (60_exceptions R190). -/
theorem exec_ne_fault {s : State} (hs : s.Inv) (i : Instr) (f : Fault) : exec i s ≠ .fault f := by
  by_cases hadmitted : s.initState = .cleared ∨ IsInit i
  · obtain ⟨t, h⟩ := exec_completes hs hadmitted
    rw [h]
    nofun
  · obtain ⟨hcleared, hi⟩ := not_or.mp hadmitted
    rw [exec_of_not_cleared hs.1 hcleared hi]
    nofun

/-- A settled answer is a fault only where the operation's own answer is that fault. -/
theorem settle_fault {s : State} {answer : Answer} {f : Fault} (h : settle s answer = .fault f) :
    answer = .fault f := by
  unfold settle at h
  split at h
  case h_3 => exact h
  all_goals cases h

/-- A step faults only where the operation it runs does. -/
theorem step_fault {s : State} {f : Fault} (h : step s = .fault f) :
    ∃ i rest, exec i (s.withPort rest) = .fault f := by
  by_cases hwf : s.cfg.WF
  · rw [step, State.built_of_wf hwf] at h
    split at h
    case h_3 i rest _ => exact ⟨i, rest, settle_fault h⟩
    all_goals cases h
  · rw [step_of_not_wf hwf] at h
    cases h

/-- Settles O13: a step's fault is an operation's, and the invariant, which does not read the port, leaves none. -/
theorem stepNeverFaults : Obligations.StepNeverFaults := by
  intro s f hs hfault
  obtain ⟨i, rest, hexec⟩ := step_fault hfault
  have hport : (s.withPort rest).Inv := hs
  exact exec_ne_fault hport i f hexec

end Sys2Proof.Machine
end

section
/-! PROOF. The silent clamps (60_exceptions R192): clamping a second time changes nothing, and a clamped value still fits
in its operand byte. -/

namespace Sys2Proof.Machine

open Sys2Proof.Claims

/-- A value below an operand byte's survives the way through a byte. -/
theorem toNat_ofNat_of_le {n : Nat} {v : Byte} (h : n ≤ v.toNat) : (BitVec.ofNat 8 n).toNat = n :=
  Nat.mod_eq_of_lt (h.trans_lt v.isLt)

/-- The clamp of INIT's rows and columns is idempotent, for every limit (10_state R15). -/
theorem clampGeometry_geometry (v : Byte) (most : Nat) :
    clampGeometry (BitVec.ofNat 8 (geometry v most)) most = clampGeometry v most := by
  have hv := v.isLt
  have hfits : (BitVec.ofNat 8 (geometry v most)).toNat = geometry v most :=
    Nat.mod_eq_of_lt (by unfold geometry; omega)
  rw [clampGeometry, hfits, clampGeometry, geometry]
  omega

/-- The clamp of SETCURSOR's line and position is idempotent (41_text_cursor R113). -/
theorem clampIndex_clamped (v : Byte) (count : Nat) :
    clampIndex (BitVec.ofNat 8 (min v.toNat (count - 1))).toNat count = clampIndex v.toNat count := by
  rw [toNat_ofNat_of_le (min_le_left _ _), clampIndex, clampIndex, min_assoc, min_self]

/-- The clamp of CREATECHAR's slot is idempotent (42_glyphs R131). -/
theorem clampSlot_clamped (c : Config) (slot : Byte) :
    clampSlot c (BitVec.ofNat 8 (min slot.toNat c.maxSlot)) = clampSlot c slot := by
  rw [clampSlot, toNat_ofNat_of_le (min_le_left _ _), clampSlot, min_assoc, min_self]

/-! ### The three clamping operations, in every state -/

/-- The configuration check runs an operation on the state it checks, so operations that agree there answer alike. -/
theorem State.built_congr {s : State} {run run' : State → Answer} (h : run s = run' s) : s.built run = s.built run' := by
  rw [State.built, h, State.built]

/-- The same of the admission check. -/
theorem State.admitted_congr {s : State} {run run' : State → Answer} (h : run s = run' s) :
    s.admitted run = s.admitted run' :=
  State.built_congr (by rw [h])

/-- INIT's register reset reads its geometry through the clamp alone (44_init R172, R173). -/
theorem State.resetSession_geometry (s : State) (a c r : Byte) :
    s.resetSession a (BitVec.ofNat 8 (geometry c s.cfg.maxCols)) (BitVec.ofNat 8 (geometry r s.cfg.maxRows)) =
      s.resetSession a c r := by
  rw [State.resetSession, clampGeometry_geometry, clampGeometry_geometry, State.resetSession]

theorem exec_init_geometry (a c r : Byte) (s : State) :
    exec (.init a (BitVec.ofNat 8 (geometry c s.cfg.maxCols)) (BitVec.ofNat 8 (geometry r s.cfg.maxRows))) s =
      exec (.init a c r) s := by
  have hreset := s.supersede.resetSession_geometry a c r
  rw [State.supersede_cfg] at hreset
  rw [exec_init, exec_init]
  exact State.built_congr (by rw [hreset])

theorem exec_setCursor_clamped (b : Bool) (line position : Byte) (s : State) :
    exec (.setCursor b (BitVec.ofNat 8 (min line.toNat (s.rows - 1)))
      (BitVec.ofNat 8 (min position.toNat (s.cols - 1)))) s = exec (.setCursor b line position) s := by
  rw [exec_setCursor, exec_setCursor]
  exact State.admitted_congr (by simp only [State.setCursorProc, clampIndex_clamped])

theorem exec_createChar_clamped (slot : Byte) (g : Glyph) (s : State) :
    exec (.createChar (BitVec.ofNat 8 (min slot.toNat s.cfg.maxSlot)) g) s = exec (.createChar slot g) s := by
  rw [exec_createChar, exec_createChar]
  exact State.admitted_congr (by simp only [setCgramCommand, clampSlot_clamped])

/-- Settles O28: each operation reads its operands through the clamps alone. -/
theorem clampedOperandsIndistinguishable : Obligations.ClampedOperandsIndistinguishable :=
  ⟨fun a c r s => (exec_init_geometry a c r s).symm,
    fun b line position s => (exec_setCursor_clamped b line position s).symm,
    fun slot g s => (exec_createChar_clamped slot g s).symm⟩

end Sys2Proof.Machine
end

section
/-! PROOF. The delay law, which is the wire law without bytes: what an operation adds to the delay requests
(60_exceptions R199). -/

namespace Sys2Proof.Machine

open Sys2Proof.Claims

/-- The delay request of one wire item. -/
def WireItem.delays : WireItem → List Nat
  | .byte _ _ => []
  | .delay us => [us]

@[simp] theorem flatMap_delays_map_byte (a : Byte) (bytes : List Byte) :
    (bytes.map (WireItem.byte a)).flatMap WireItem.delays = [] := by
  simp [WireItem.delays]

@[simp] theorem flatMap_delays_map_delay (delays : List Nat) :
    (delays.map WireItem.delay).flatMap WireItem.delays = delays := by
  simp [List.flatMap_map, WireItem.delays]

/-- The delay requests among events are those of the wire they make. -/
theorem delaysIn_eq_wire (es : List Event) : delaysIn es = (es.flatMap Event.wire).flatMap WireItem.delays := by
  induction es with
  | nil => rfl
  | cons e rest ih =>
    rw [List.flatMap_cons, List.flatMap_append, ← ih]
    cases e with
    | bw addr bytes =>
      rw [Event.wire, flatMap_delays_map_byte]
      rfl
    | dly us => rfl

/-- Pending bytes hold no delay request. -/
theorem State.delaysIn_out (s : State) : delaysIn s.out = s.wire.flatMap WireItem.delays := by
  rw [State.wire, List.flatMap_append, flatMap_delays_map_byte, List.append_nil, delaysIn_eq_wire]

theorem wireItems_delays (s : State) (raws : List Byte) (transfers : List (Mode × Byte)) (delays : List Nat) :
    (wireItems s raws transfers delays).flatMap WireItem.delays = delays := by
  rw [wireItems, List.flatMap_append, flatMap_delays_map_byte, flatMap_delays_map_delay, List.nil_append]

theorem initWire_delays (c : Config) (a : Byte) (rows : Nat) :
    (initWire c a rows).flatMap WireItem.delays = [c.tSync1, c.tSync2, c.tSync3, c.tClear] := by
  rw [initWire, ← delaysIn_eq_wire]
  rfl

/-- Of what an operation adds to the wire, the delay requests are those R199 lists. -/
theorem wireOf_delays (s : State) (i : Instr) : (wireOf s i).flatMap WireItem.delays = delaysOf s.cfg i := by
  by_cases hi : IsInit i
  · obtain ⟨a, c, r, rfl⟩ := hi
    exact initWire_delays s.cfg a _
  · rw [wireOf_of_not_isInit s hi, wireItems_delays]

/-- The supersession flush requests no delay (44_init R171). -/
theorem State.supersede_delaysIn (s : State) : delaysIn s.supersede.out = delaysIn s.out := by
  rw [State.delaysIn_out, State.delaysIn_out, State.supersede_eq]
  split
  · rw [State.wire_afterShow]
  · rfl

/-- Settles O44: the wire law of either kind of operation, read for its delays. INIT may drop pending bytes, which hold
none. -/
theorem delaysOnlyFromInitClearHome : Obligations.DelaysOnlyFromInitClearHome := by
  intro i s t h
  rw [← wireOf_delays]
  by_cases hi : IsInit i
  · obtain ⟨a, c, r, rfl⟩ := hi
    rw [State.delaysIn_out t, wire_of_exec_init h, List.flatMap_append, ← delaysIn_eq_wire, State.supersede_delaysIn]
  · obtain ⟨⟨-, hcleared⟩, -⟩ := leaves_of_exec (ne_init_of_not_isInit hi) h
    rw [State.delaysIn_out t, wire_of_exec (.inl hcleared) h, List.flatMap_append, ← State.delaysIn_out]

end Sys2Proof.Machine
end

section
/-! PROOF. Transfers issued one after another (70_reset_and_hazards R221). -/

namespace Sys2Proof.Machine

/-- Once the first operation has completed, the run goes on from its next state. -/
theorem runOps_cons_of_exec {i : Instr} {s t : State} (h : exec i s = .next t) (rest : List Instr) :
    runOps (i :: rest) s = runOps rest t := by
  rw [runOps, h]

/-- Settles O49, by induction on the transfers: each is admitted after the one before, adds its bytes directly behind
what stands on the wire, and leaves its mode for the next to compare with. -/
theorem transfersFollowWithoutWait : Obligations.TransfersFollowWithoutWait := by
  intro xs
  induction xs with
  | nil =>
    intro s _
    exact ⟨s, rfl, by simp [logicalTransfers]⟩
  | cons x rest ih =>
    intro s hs
    obtain ⟨m, b, v⟩ := x
    have hsend := exec_send hs m b v
    obtain ⟨t, hrun, hwire⟩ := ih _ (ready_after_exec hsend)
    refine ⟨t, (runOps_cons_of_exec hsend _).trans hrun, ?_⟩
    rw [hwire, State.wire_afterTransfer, List.append_assoc, List.map_cons, logicalTransfers, List.map_append]
    simp only [State.afterTransfer_cfg, State.afterTransfer_bl, State.afterTransfer_addr, State.afterTransfer_lastMode]

end Sys2Proof.Machine
end
